-- ==== Sys2Proof/Word.lean ====
section
/-! DEFINITION. The words of the part: bytes, 16-bit registers, 32-bit tributary words, and moments. -/

namespace Sys2Proof

/-- A byte is 8 bits (00_scope, Conventions: Sizes). -/
abbrev Byte := BitVec 8

/-- A management register, a digest or a cycle number: 16 bits (00_scope, Conventions: Registers; R64, R65). -/
abbrev Half := BitVec 16

/-- A tributary word is 32 bits (00_scope, Conventions: Sizes; R153). -/
abbrev Word := BitVec 32

/-- A station number, 0 to 15 (00_scope, Conventions: Station and class indices). -/
abbrev Station := Fin 16

/-- A traffic class, 0 to 3; also the number of a delivery queue (00_scope, Conventions). -/
abbrev Class := Fin 4

/-- A moment or a length of time in nanoseconds by the station's own clock (notes/assumptions/1.md). -/
abbrev Time := Int

/-- `n` microseconds. -/
def us (n : Nat) : Time := 1000 * (n : Int)

/-- One value for each of the four classes, or for each of the four delivery queues. -/
structure Four (α : Type) where
  c0 : α
  c1 : α
  c2 : α
  c3 : α
  deriving DecidableEq, Repr

namespace Four

/-- The value for class `c`. -/
def get {α : Type} (f : Four α) (c : Class) : α :=
  match c with
  | 0 => f.c0
  | 1 => f.c1
  | 2 => f.c2
  | 3 => f.c3

/-- The same values with `a` for class `c`. -/
def set {α : Type} (f : Four α) (c : Class) (a : α) : Four α :=
  match c with
  | 0 => { f with c0 := a }
  | 1 => { f with c1 := a }
  | 2 => { f with c2 := a }
  | 3 => { f with c3 := a }

/-- The same value for every class. -/
def all {α : Type} (a : α) : Four α := ⟨a, a, a, a⟩

end Four

end Sys2Proof
end

