-- ==== Sys2Proof/Syntax.lean ====
section
/-! DEFINITION. The commands: one constructor per row of spec/opcode_table.json, with the operands each carries. -/

namespace Sys2Proof

/-- The four kinds of tributary word (R153, 11.2: codes 0 BODY, 1 HEAD, 2 TAIL, 3 BREAK). -/
inductive WordKind where
  | body
  | head
  | tail
  | brk
  deriving DecidableEq, Repr

/-- A reception: CD asserted at `start`, deasserted at `stop`, and the bits RXD carried between them,
first bit first (R1). -/
structure Reception where
  start : Time
  stop  : Time
  bits  : List Bool
  deriving DecidableEq, Repr

/-- A reception that is still going on: CD asserted at `start`, and the bits RXD has carried since, first bit
first (R1). -/
structure RunningCarrier where
  start : Time
  bits  : List Bool
  deriving DecidableEq, Repr

/-- What LIF saw of the line in one span (R8, R9): whether carrier was present at the moment the span began,
the receptions that started and ended in the span, in order, and the reception that is still present at the
moment the span ends, if there is one. -/
structure SpanLine where
  carrierAtStart : Bool
  heard          : List Reception
  carrierAtEnd   : Option RunningCarrier
  deriving DecidableEq, Repr

/-- The seventeen counters of R173. -/
inductive Counter where
  | damagedFrames
  | blindCycles
  | stepLosses
  | tablesLoaded
  | tablesSent
  | ingressRefused
  | rxNoContext
  | rxNoRoom
  | rxGapAbort
  | rxSenderAbort
  | rxStaleAbort
  | rxRemovalAbort
  | steerDiscard
  | queueOverflow0
  | queueOverflow1
  | queueOverflow2
  | queueOverflow3
  deriving DecidableEq, Repr

/-- The commands of spec/opcode_table.json, in the table's order. A `t` is the moment of the event. -/
inductive Instr where
  /-- POWER_ON (R174). -/
  | powerOn
  /-- RESET_PIN_ASSERT (R174). -/
  | resetPinAssert
  /-- RESET_PIN_RELEASE (R174). -/
  | resetPinRelease
  /-- CLEAN_UP_COMPLETE (R154). -/
  | cleanUpComplete
  /-- JOIN, taken at the completion of its COMMAND write at `t` (R27, R165). -/
  | join (t : Time)
  /-- LEAVE (R43). -/
  | leave
  /-- FLUSH of class `c` (R114). -/
  | flush (c : Class)
  /-- SOFT RESET (R169). -/
  | softReset
  /-- A COMMAND write whose command field `code` names no command: 0 or 5 to 15 (R177). -/
  | unknownCommand (code : BitVec 4)
  /-- The completion at `t` of a write of `value` to register `addr` (R165, R166). -/
  | registerWrite (t : Time) (addr : BitVec 7) (value : Half)
  /-- The completion of a read of EVENTS (R171). -/
  | eventsRead
  /-- The completion of a read of the register of counter `c` (R173). -/
  | counterRead (c : Counter)
  /-- CD changes to `level` at `t` (R20, R32). -/
  | carrierDetect (t : Time) (level : Bool)
  /-- The listen timer reaches 5 ms at `t` (R20, R32). -/
  | listenTimerExpiry (t : Time)
  /-- The cold-start delay ends at `t` (R33). -/
  | coldStartDelayEnd (t : Time)
  /-- The last check bit of the frame in transmission has been sent at `t` (R1, R22). -/
  | transmissionEnd (t : Time)
  /-- The line-lost timer reaches 5 ms at `t` (R21). -/
  | lineLostTimerExpiry (t : Time)
  /-- The nominal start of the own bid slot (R49). -/
  | ownBid
  /-- The end of the present span, with what the line carried in it (R9, R10). -/
  | slotReport (line : SpanLine)
  /-- The end of a reception that belongs to no slot (R12). -/
  | unslottedReception (r : Reception)
  /-- The start of a gap span (R25). -/
  | cycleBoundary
  /-- The nominal start of data slot 0 of a cycle whose table source this station is (R70). -/
  | tableSend
  /-- The nominal start of an own granted data slot (R91, R107). -/
  | frameRequest
  /-- The stale timer of the context of `(src, cls)` reaches 50 ms at `t` (R122). -/
  | staleTimerExpiry (t : Time) (src : Station) (cls : Class)
  /-- The local side offers an ingress word at a rising edge of TCLK (R153, R156). -/
  | ingressWord (kind : WordKind) (data : Word)
  /-- EREADY is high at a rising edge of TCLK: the offered egress word is taken (R153, R161). -/
  | egressWordTaken
  /-- The capture of a read of register `addr` (R165). -/
  | readCapture (addr : BitVec 7)
  deriving DecidableEq, Repr

end Sys2Proof
end

