-- ==== Sys2Proof/Decode.lean ====
section
/-! DEFINITION. The commands that words spell: no row of spec/opcode_table.json gives any bits. -/

namespace Sys2Proof

/-- The command that the bits `w` of a table word spell: none, for no row of the table gives bits
(notes/assumptions/21.md). -/
def decodeTableWord (_nbits _w : Nat) : Option Instr := none

end Sys2Proof
end

