-- ==== Sys2Proof/Machine/Crc.lean ====
section
/-! DEFINITION. The CRC-16 of R2: frame check, state digest and profile check. -/

namespace Sys2Proof.Machine

/-- The bits of a byte, most significant first (11.1, Outer form). -/
def byteBits (b : Byte) : List Bool :=
  [b.getLsbD 7, b.getLsbD 6, b.getLsbD 5, b.getLsbD 4, b.getLsbD 3, b.getLsbD 2, b.getLsbD 1, b.getLsbD 0]

/-- One bit through the polynomial x^16+x^12+x^5+1 (R2, condition 4). -/
def crcBit (crc : Half) (bit : Bool) : Half :=
  if crc.getLsbD 15 != bit then (crc <<< 1) ^^^ 0x1021#16 else crc <<< 1

/-- The CRC-16 of a byte sequence: initial value all ones, no final inversion (R2, condition 4; R65; R167).
DEDUCED: the bits enter most significant first, the order of R2's bytes on the line (notes/assumptions/23.md). -/
def crc16 (bytes : List Byte) : Half :=
  (bytes.flatMap byteBits).foldl crcBit 0xFFFF#16

end Sys2Proof.Machine
end

