-- ==== Sys2Proof/Machine/State.lean ====
section
/-! DEFINITION. The state of the part, block by block (00_scope, Block overview), and its value after power-on. -/

namespace Sys2Proof.Machine

/-! ### Frames and messages -/

/-- A destination (R3, 11.1, 11.2). Bit 3 of the number is not read for a Group (R175, R176); a number goes with
no meaning for All (notes/assumptions/18.md). `reserved` is destination kind code 3. -/
inductive Destination where
  | station (k : Station)
  | group (g : Fin 8)
  | all
  | reserved (k : Fin 16)
  deriving DecidableEq, Repr

/-- The fields of a BID (R3, 11.1). -/
structure BidFrame where
  station : Station
  cycle   : Half
  leaving : Bool
  resync  : Bool
  joining : Bool
  check   : Byte
  digest  : Half
  demand  : Four Byte
  deriving DecidableEq, Repr

/-- The fields of a SEGMENT (R3, 11.1). -/
structure SegmentFrame where
  src     : Station
  cls     : Class
  first   : Bool
  last    : Bool
  dest    : Destination
  seq     : Byte
  tag     : Byte
  len     : BitVec 11
  index   : BitVec 5
  remain  : Byte
  payload : List Byte
  deriving DecidableEq, Repr

/-- The fields of an EMPTY (R3, 11.1). -/
structure EmptyFrame where
  src    : Station
  cls    : Class
  remain : Byte
  deriving DecidableEq, Repr

/-- The fields of an ABORT (R3, 11.1). -/
structure AbortFrame where
  src    : Station
  cls    : Class
  seq    : Byte
  remain : Byte
  deriving DecidableEq, Repr

/-- The fields of a TABLE (R3, R70, 11.1): `body` is the 69-byte serialisation. -/
structure TableFrame where
  src    : Station
  check  : Byte
  body   : List Byte
  digest : Half
  remain : Byte
  deriving DecidableEq, Repr

/-- A line frame of one of the six kinds (R3). -/
inductive Frame where
  | start (station : Station) (check : Byte)
  | bid (f : BidFrame)
  | segment (f : SegmentFrame)
  | empty (f : EmptyFrame)
  | abort (f : AbortFrame)
  | table (f : TableFrame)
  deriving DecidableEq, Repr

/-! ### LIF -/

/-- The receiver of LIF: off, on, or finishing the echo of a frame that was in transmission at the entry into
STOPPED or HALTED (R12, R22). -/
inductive Receiver where
  | off
  | on
  | finishing
  deriving DecidableEq, Repr

/-- LIF's copy of an own frame until its echo is judged (R11): whether carrier was seen since the transmission
began, and the result where the reception ended before the transmission did (notes/assumptions/11.md). -/
structure EchoWatch where
  frame       : Frame
  carrierSeen : Bool
  result      : Option Bool
  deriving DecidableEq, Repr

/-- The line interface (R1, R11, R12, R15, R22). The copy of an own START whose result R33 awaits stands apart from
the copy of the slot's frame, since a carrier that outlasts bid slot 0 delays the one beyond the next own BID. -/
structure Lif where
  receiver      : Receiver
  receiverSince : Option Time
  tx            : Option Frame
  echo          : Option EchoWatch
  startEcho     : Option EchoWatch
  carriers      : List (Time × Time)
  deriving DecidableEq, Repr

/-! ### CYC -/

/-- The ten station states (R24). -/
inductive StationState where
  | config
  | listen
  | starting
  | joining
  | inStep
  | blind
  | outOfStep
  | leaving
  | stopped
  | halted
  deriving DecidableEq, Repr

/-- The halt causes (R24, R46). -/
inductive HaltCause where
  | none
  | profileMismatch
  | duplicateNumber
  | echoFault
  | joinFailed
  deriving DecidableEq, Repr

/-- A timer: stopped, or running since a moment (R21, R24, R122). -/
inductive Timer where
  | stopped
  | running (since : Time)
  deriving DecidableEq, Repr

/-- The listen timer (R20): held at zero while CD is asserted. -/
inductive ListenTimer where
  | stopped
  | held
  | running (since : Time)
  deriving DecidableEq, Repr

/-- The outcome of a table load, until the next cycle boundary settles it (R35). -/
inductive LoadOutcome where
  | member
  | notMember
  deriving DecidableEq, Repr

/-- The cycle position (R14). `dataFixed none` is DATA with the end fixed and the slot index unknown. -/
inductive Position where
  | none
  | gap
  | announce (k : Nat)
  | dataFixed (slot : Option Nat)
  | dataOpen (slot : Nat)
  deriving DecidableEq, Repr

/-- The data-phase layout (R14): whether a table block is placed. -/
inductive Layout where
  | placed
  | notPlaced
  | unknown
  deriving DecidableEq, Repr

/-- The flag of a Valid bid (R47). -/
inductive BidFlag where
  | none
  | joining
  | resync
  | leaving
  deriving DecidableEq, Repr

/-- The fields a Valid record of the bid table takes from the bid (R47, R48). -/
structure ValidBid where
  station : Station
  cycle   : Half
  flag    : BidFlag
  digest  : Half
  demand  : Four Nat
  deriving DecidableEq, Repr

/-- The status of a record of the bid table (R47). -/
inductive BidStatus where
  | unheard
  | silent
  | damaged
  | valid (b : ValidBid)
  deriving DecidableEq, Repr

/-- A record of the bid table (R47). `entered15` says that R15 entered it for a slot that passed before the
position was fixed, and not a slot report. -/
structure BidRecord where
  status    : BidStatus
  own       : Bool
  echo      : Option Bool
  entered15 : Bool
  deriving DecidableEq, Repr

/-- A cleared record (R47). -/
def BidRecord.clear : BidRecord := ⟨.unheard, false, none, false⟩

/-- The bid table of the current cycle: sixteen records and the damage mark (R47). -/
structure BidTable where
  records : List BidRecord
  damage  : Bool
  deriving DecidableEq, Repr

/-- The cleared table (R47). -/
def BidTable.clear : BidTable := ⟨List.replicate 16 BidRecord.clear, false⟩

/-- The announcement outcome of a cycle (R61). -/
structure Announcement where
  reference   : Option Half
  eligible    : List Station
  source      : Option Station
  placed      : Bool
  ownEligible : Bool
  committed   : Bool
  deriving DecidableEq, Repr

/-- The cycle engine (R14, R24, R47, R61). A reception that started before `unslottedUntil` is unslotted although a
position is held (R12, R16, R17): the span of the coming gap, the first one that the position gives, begins there.
`fixedAt` is the frame end at which an unslotted frame last fixed the position (R15, R16, R17): a position fixed in a slot,
or by the station's own decisions, stands before the next gap begins, but an unslotted frame may end late (R19). -/
structure Cyc where
  state          : StationState
  haltCause      : HaltCause
  leavePending   : Bool
  joinAttempt    : Nat
  joinCycle      : Nat
  outOfStep      : Nat
  echoFault      : Nat
  profileChecked : Bool
  coldStart      : Timer
  pendingLoad    : Option LoadOutcome
  timingLock     : Bool
  position       : Position
  boundaryDue    : Bool
  cycleStart     : Option Time
  annStart       : Option Time
  dataStart      : Option Time
  dataEnd        : Option Time
  unslottedUntil : Option Time
  fixedAt        : Option Time
  layout         : Layout
  listenTimer    : ListenTimer
  lineLost       : Timer
  bids           : BidTable
  outcome        : Option Announcement
  eligibleLast   : Bool
  deriving DecidableEq, Repr

/-! ### SSU and ALC -/

/-- What the schedule state holds about one station (R64): membership, silence count and the three deficits. -/
structure SchedRow where
  member  : Bool
  silence : Nat
  d1      : Nat
  d2      : Nat
  d3      : Nat
  deriving DecidableEq, Repr

/-- The clear value of a row (R64). -/
def SchedRow.clear : SchedRow := ⟨false, 0, 0, 0, 0⟩

/-- The replicated schedule state (R64): the cycle number, the rotation pointer P, and a row per station 0 to 15. -/
structure Sched where
  cycle   : Half
  pointer : Nat
  rows    : List SchedRow
  deriving DecidableEq, Repr

/-- The empty schedule state (R64). -/
def Sched.empty : Sched := ⟨0, 0, List.replicate 16 SchedRow.clear⟩

/-- The schedule state unit (R64, R70): the state, its digest, and the TABLE composed for this cycle. -/
structure Ssu where
  sched    : Sched
  digest   : Half
  tableOut : Option TableFrame
  deriving DecidableEq, Repr

/-- One entry of the grant list (R77). -/
structure Grant where
  station : Station
  cls     : Class
  count   : Nat
  first   : Nat
  deriving DecidableEq, Repr

/-- The grant list with the placement decision and T (R77). -/
structure GrantList where
  entries : List Grant
  placed  : Bool
  total   : Nat
  deriving DecidableEq, Repr

/-- The allocation unit (R77): the list is held or absent. -/
structure Alc where
  grants : Option GrantList
  deriving DecidableEq, Repr

/-! ### TXQ -/

/-- The states of a message descriptor (R99). -/
inductive DescState where
  | arriving
  | queued
  | sending
  | aborting
  deriving DecidableEq, Repr

/-- A message descriptor (R98). A buffer of the buffer list is its 32 bytes. -/
structure Descriptor where
  cls      : Class
  dest     : Destination
  tag      : Byte
  len      : Nat
  notify   : Bool
  segments : Nat
  seq      : Option Byte
  next     : Nat
  bufs     : List (List Byte)
  st       : DescState
  deriving DecidableEq, Repr

/-- The refusal causes of an ingress message (R101, R113). -/
inductive RefusalCause where
  | notActive
  | queueFull
  | badDestination
  | malformed
  | noRoom
  | broken
  deriving DecidableEq, Repr

/-- The ingress record (R100). `written` counts the payload bytes written so far (R102). -/
inductive IngressRecord where
  | none
  | admitted (cls : Class) (written : Nat)
  | discarding (cause : RefusalCause) (cls : Class) (tag : Byte)
  deriving DecidableEq, Repr

/-- The transmit queue manager (R95, R97, R100, R103). -/
structure Txq where
  free    : Nat
  queues  : Four (List Descriptor)
  seqs    : Four Byte
  ingress : IngressRecord
  deriving DecidableEq, Repr

/-! ### RAS -/

/-- The abort reasons (R128). -/
inductive AbortReason where
  | gap
  | superseded
  | stale
  | removal
  | senderAbort
  deriving DecidableEq, Repr

/-- A reassembly context (R121). K is `bufs.length`; the bytes received are `32 * next`; the stale timer has run
since `since` (R122). -/
structure Context where
  src   : Station
  cls   : Class
  seq   : Byte
  tag   : Byte
  dest  : Destination
  len   : Nat
  next  : Nat
  bufs  : List (List Byte)
  since : Time
  deriving DecidableEq, Repr

/-- The reassembly unit (R119, R121). -/
structure Ras where
  free     : Nat
  contexts : List Context
  deriving DecidableEq, Repr

/-! ### DLV -/

/-- The delivery status (R132, R138): Complete, or Truncated with its reason. -/
inductive DeliveryStatus where
  | complete
  | gap
  | superseded
  | stale
  | removal
  deriving DecidableEq, Repr

/-- A delivered-message record (R132, R138). -/
structure DeliveredRecord where
  src    : Station
  cls    : Class
  tag    : Byte
  seq    : Byte
  len    : Nat
  status : DeliveryStatus
  bufs   : List (List Byte)
  deriving DecidableEq, Repr

/-- The kinds of notice (R113, R141). -/
inductive NoticeKind where
  | sent
  | flushed
  | refused
  deriving DecidableEq, Repr

/-- A notice record (R141). -/
structure Notice where
  kind    : NoticeKind
  cls     : Class
  seq     : Option Byte
  tag     : Byte
  cause   : Option RefusalCause
  partly  : Bool
  lost    : Nat
  deriving DecidableEq, Repr

/-- The delivery unit (R138, R141, R146); the steering table stands among the local settings of MGT (R136). -/
structure Dlv where
  queues  : Four (List DeliveredRecord)
  notices : List Notice
  lost    : Nat
  pointer : Class
  run     : Nat
  deriving DecidableEq, Repr

/-! ### TRB -/

/-- The fields of a first ingress HEAD word (R155, 11.2). -/
structure FirstHead where
  cls    : Class
  dest   : Destination
  notify : Bool
  deriving DecidableEq, Repr

/-- The ingress parser (R156). -/
inductive Parser where
  | idle
  | header (h : FirstHead)
  | payload (expected taken : Nat)
  | overrun
  | stray (cls : Class)
  | skip
  deriving DecidableEq, Repr

/-- What egress emits: a delivered record or a notice (R148, R149). -/
inductive EgressRecord where
  | delivered (r : DeliveredRecord)
  | notice (n : Notice)
  deriving DecidableEq, Repr

/-- The egress framer (R161): EMITTING holds the record in emission (R147) and the index of the word offered. -/
inductive Framer where
  | idle
  | emitting (rec : EgressRecord) (index : Nat)
  | breakPending
  deriving DecidableEq, Repr

/-- The tributary port (R156, R161). -/
structure Trb where
  parser : Parser
  framer : Framer
  deriving DecidableEq, Repr

/-! ### MGT -/

/-- The profile as stored, each value in the width of its field (R166, 11.3). -/
structure Profile where
  n       : BitVec 5
  b       : Byte
  a       : Byte
  q1      : BitVec 6
  q2      : BitVec 6
  q3      : BitVec 6
  silence : BitVec 3
  deriving DecidableEq, Repr

/-- A steering entry as stored (R136, 11.3, R177). -/
structure SteerEntry where
  valid   : Bool
  action  : BitVec 3
  clsM    : BitVec 3
  srcM    : BitVec 5
  tagV    : Byte
  tagMask : Byte
  deriving DecidableEq, Repr

/-- The local settings as stored (R166, 11.3). -/
structure LocalSettings where
  station : BitVec 4
  groups  : Byte
  mode    : BitVec 2
  damaged : Bool
  weights : Four (BitVec 4)
  steer   : List SteerEntry
  deriving DecidableEq, Repr

/-- The six events (R170). -/
inductive Event where
  | state
  | halt
  | joinRef
  | stepLoss
  | noticeLoss
  | cmdRef
  deriving DecidableEq, Repr

/-- One flag for each event (R170, R171). -/
structure EventFlags where
  state      : Bool
  halt       : Bool
  joinRef    : Bool
  stepLoss   : Bool
  noticeLoss : Bool
  cmdRef     : Bool
  deriving DecidableEq, Repr

/-- No flag set. -/
def EventFlags.clear : EventFlags := ⟨false, false, false, false, false, false⟩

/-- The JOIN refusal reasons (R167). -/
inductive JoinRefusal where
  | none
  | lineSize
  | budget
  | expressCap
  | quantum
  | silenceLimit
  | stationNumber
  | weight
  deriving DecidableEq, Repr

/-- The seventeen counters (R173). -/
structure Counters where
  damagedFrames  : Half
  blindCycles    : Half
  stepLosses     : Half
  tablesLoaded   : Half
  tablesSent     : Half
  ingressRefused : Half
  rxNoContext    : Half
  rxNoRoom       : Half
  rxGapAbort     : Half
  rxSenderAbort  : Half
  rxStaleAbort   : Half
  rxRemovalAbort : Half
  steerDiscard   : Half
  queueOverflow0 : Half
  queueOverflow1 : Half
  queueOverflow2 : Half
  queueOverflow3 : Half
  deriving DecidableEq, Repr

/-- Every counter 0 (R173). -/
def Counters.clear : Counters := ⟨0, 0, 0, 0, 0, 0, 0, 0, 0, 0, 0, 0, 0, 0, 0, 0, 0⟩

/-- A read between its capture and its completion (R165): the register and the value shifted out on MISO. -/
structure ReadInProgress where
  addr  : BitVec 7
  value : Half
  deriving DecidableEq, Repr

/-- The management port (R165 to R173). `arisen` holds the events whose cause arose since the last capture. -/
structure Mgt where
  profile  : Profile
  settings : LocalSettings
  events   : EventFlags
  arisen   : EventFlags
  mask     : EventFlags
  refusal  : JoinRefusal
  counters : Counters
  capture  : Option ReadInProgress
  deriving DecidableEq, Repr

/-! ### The whole part -/

/-- The input pins the model keeps: CD with the moment of its last change (R1, R20), and RESET (R174). -/
structure Pins where
  cd       : Bool
  cdSince  : Time
  resetPin : Bool
  deriving DecidableEq, Repr

/-- The reasons a step may end in a fault: the manual gives the part none, so there is none (INVENTORY.md, Faults). -/
inductive Fault where
  deriving DecidableEq, Repr

/-- The reasons a command may be refused. -/
inductive Refusal where
  /-- Raised by an arm of `exec` whose command has no meaning yet; no arm answers it. Safe: the model stops. -/
  | notModelled (mnemonic : String)
  deriving DecidableEq, Repr

/-- The state of the part: its nine blocks, its pins, the clean-up after a reset (R154, R164), the model's index of
free values, and the queue of commands waiting. -/
structure State where
  pins      : Pins
  cleaning  : Bool
  breakHeld : Bool
  lif       : Lif
  cyc       : Cyc
  ssu       : Ssu
  alc       : Alc
  txq       : Txq
  ras       : Ras
  dlv       : Dlv
  trb       : Trb
  mgt       : Mgt
  freeIx    : Nat
  pending   : List Instr
  deriving DecidableEq, Repr

/-! ### Values after power-on -/

/-- LIF after power-on, the RESET pin and SOFT RESET (R1, R23). -/
def Lif.reset : Lif := ⟨.off, none, none, none, none, []⟩

/-- CYC after power-on, the RESET pin and SOFT RESET (R14, R20, R21, R24, R47, R61). -/
def Cyc.reset : Cyc where
  state := .config
  haltCause := .none
  leavePending := false
  joinAttempt := 0
  joinCycle := 0
  outOfStep := 0
  echoFault := 0
  profileChecked := false
  coldStart := .stopped
  pendingLoad := none
  timingLock := false
  position := .none
  boundaryDue := false
  cycleStart := none
  annStart := none
  dataStart := none
  dataEnd := none
  unslottedUntil := none
  fixedAt := none
  layout := .unknown
  listenTimer := .stopped
  lineLost := .stopped
  bids := BidTable.clear
  outcome := none
  eligibleLast := false

/-- SSU after a clear or a reset (R64, R65): the empty state, whose 69 bytes are all 0, and its digest. -/
def Ssu.reset : Ssu := ⟨Sched.empty, crc16 (List.replicate 69 0), none⟩

/-- ALC holding no grant list (R77). -/
def Alc.reset : Alc := ⟨none⟩

/-- TXQ after power-on, the RESET pin and SOFT RESET (R95, R97, R100, R103, R117). -/
def Txq.reset : Txq := ⟨256, Four.all [], Four.all 0, .none⟩

/-- RAS after power-on, the RESET pin and SOFT RESET (R119, R121, R135). -/
def Ras.reset : Ras := ⟨512, []⟩

/-- DLV after power-on, the RESET pin and SOFT RESET (R138, R141, R146, R152). -/
def Dlv.reset : Dlv := ⟨Four.all [], [], 0, 0, 0⟩

/-- TRB after power-on (R156, R164). -/
def Trb.reset : Trb := ⟨.idle, .idle⟩

/-- The profile after power-on and the RESET pin (R166). -/
def Profile.reset : Profile := ⟨16, 64, 8, 8, 4, 2, 3⟩

/-- A steering entry after power-on and the RESET pin: every field 0 (R136, 11.3). -/
def SteerEntry.reset : SteerEntry := ⟨false, 0, 0, 0, 0, 0⟩

/-- The local settings after power-on and the RESET pin (R166, 11.3). -/
def LocalSettings.reset : LocalSettings := ⟨0, 0, 0, false, Four.all 1, List.replicate 16 SteerEntry.reset⟩

/-- MGT after power-on and the RESET pin (R166, R167, R170, R171, R173). -/
def Mgt.reset : Mgt where
  profile := Profile.reset
  settings := LocalSettings.reset
  events := EventFlags.clear
  arisen := EventFlags.clear
  mask := EventFlags.clear
  refusal := .none
  counters := Counters.clear
  capture := none

/-- The part right after power-on (R174): every block at its reset value, IREADY still low until the clean-up is
complete (R154, notes/assumptions/16.md), the pins at rest (notes/assumptions/15.md), no command waiting. -/
def State.reset : State where
  pins := ⟨false, 0, false⟩
  cleaning := true
  breakHeld := false
  lif := Lif.reset
  cyc := Cyc.reset
  ssu := Ssu.reset
  alc := Alc.reset
  txq := Txq.reset
  ras := Ras.reset
  dlv := Dlv.reset
  trb := Trb.reset
  mgt := Mgt.reset
  freeIx := 0
  pending := []

end Sys2Proof.Machine
end

