-- ==== Sys2Proof/Machine/Flags.lean ====
section
/-! DEFINITION. The status side of MGT: event flags, ATTN and counters (R170, R171, R173), and the profile's values. -/

namespace Sys2Proof.Machine

/-! ### Event flags -/

/-- The flag of an event. -/
def EventFlags.get (f : EventFlags) : Event → Bool
  | .state => f.state
  | .halt => f.halt
  | .joinRef => f.joinRef
  | .stepLoss => f.stepLoss
  | .noticeLoss => f.noticeLoss
  | .cmdRef => f.cmdRef

/-- The flags with the flag of one event set to `b`. -/
def EventFlags.set (f : EventFlags) (e : Event) (b : Bool) : EventFlags :=
  match e with
  | .state => { f with state := b }
  | .halt => { f with halt := b }
  | .joinRef => { f with joinRef := b }
  | .stepLoss => { f with stepLoss := b }
  | .noticeLoss => { f with noticeLoss := b }
  | .cmdRef => { f with cmdRef := b }

/-- The six flags as the EVENTS and EVENT_MASK registers place them (11.3). -/
def EventFlags.toHalf (f : EventFlags) : Half :=
  0#10 ++ BitVec.ofBool f.cmdRef ++ BitVec.ofBool f.noticeLoss ++ BitVec.ofBool f.stepLoss
    ++ BitVec.ofBool f.joinRef ++ BitVec.ofBool f.halt ++ BitVec.ofBool f.state

/-- The six flags a written value holds; other bits are ignored (11.3, R177). -/
def EventFlags.ofHalf (v : Half) : EventFlags :=
  ⟨v.getLsbD 0, v.getLsbD 1, v.getLsbD 2, v.getLsbD 3, v.getLsbD 4, v.getLsbD 5⟩

/-- An event's cause arises: its flag is set, and it is noted as arisen since the last capture (R170, R171). -/
def raiseEvent (e : Event) (s : State) : State :=
  { s with mgt := { s.mgt with events := s.mgt.events.set e true, arisen := s.mgt.arisen.set e true } }

/-- The flags left at the completion of an EVENTS read: a flag set at the capture is cleared unless its cause arose
again after the capture (R171). `got` is the value captured. -/
def eventsAfterRead (got : EventFlags) (now arisen : EventFlags) : EventFlags where
  state := now.state && !(got.state && !arisen.state)
  halt := now.halt && !(got.halt && !arisen.halt)
  joinRef := now.joinRef && !(got.joinRef && !arisen.joinRef)
  stepLoss := now.stepLoss && !(got.stepLoss && !arisen.stepLoss)
  noticeLoss := now.noticeLoss && !(got.noticeLoss && !arisen.noticeLoss)
  cmdRef := now.cmdRef && !(got.cmdRef && !arisen.cmdRef)

/-- Some flag is set whose mask flag is clear (R171). -/
def unmaskedEvent (events mask : EventFlags) : Bool :=
  (events.state && !mask.state) || (events.halt && !mask.halt) || (events.joinRef && !mask.joinRef)
    || (events.stepLoss && !mask.stepLoss) || (events.noticeLoss && !mask.noticeLoss)
    || (events.cmdRef && !mask.cmdRef)

/-- The ATTN pin (R171): deasserted while the RESET pin is asserted. -/
def attnPin (s : State) : Bool := !s.pins.resetPin && unmaskedEvent s.mgt.events s.mgt.mask

/-! ### Counters -/

/-- The value of a counter. -/
def Counters.get (k : Counters) : Counter → Half
  | .damagedFrames => k.damagedFrames
  | .blindCycles => k.blindCycles
  | .stepLosses => k.stepLosses
  | .tablesLoaded => k.tablesLoaded
  | .tablesSent => k.tablesSent
  | .ingressRefused => k.ingressRefused
  | .rxNoContext => k.rxNoContext
  | .rxNoRoom => k.rxNoRoom
  | .rxGapAbort => k.rxGapAbort
  | .rxSenderAbort => k.rxSenderAbort
  | .rxStaleAbort => k.rxStaleAbort
  | .rxRemovalAbort => k.rxRemovalAbort
  | .steerDiscard => k.steerDiscard
  | .queueOverflow0 => k.queueOverflow0
  | .queueOverflow1 => k.queueOverflow1
  | .queueOverflow2 => k.queueOverflow2
  | .queueOverflow3 => k.queueOverflow3

/-- The counters with one of them set to `v`. -/
def Counters.set (k : Counters) (c : Counter) (v : Half) : Counters :=
  match c with
  | .damagedFrames => { k with damagedFrames := v }
  | .blindCycles => { k with blindCycles := v }
  | .stepLosses => { k with stepLosses := v }
  | .tablesLoaded => { k with tablesLoaded := v }
  | .tablesSent => { k with tablesSent := v }
  | .ingressRefused => { k with ingressRefused := v }
  | .rxNoContext => { k with rxNoContext := v }
  | .rxNoRoom => { k with rxNoRoom := v }
  | .rxGapAbort => { k with rxGapAbort := v }
  | .rxSenderAbort => { k with rxSenderAbort := v }
  | .rxStaleAbort => { k with rxStaleAbort := v }
  | .rxRemovalAbort => { k with rxRemovalAbort := v }
  | .steerDiscard => { k with steerDiscard := v }
  | .queueOverflow0 => { k with queueOverflow0 := v }
  | .queueOverflow1 => { k with queueOverflow1 := v }
  | .queueOverflow2 => { k with queueOverflow2 := v }
  | .queueOverflow3 => { k with queueOverflow3 := v }

/-- One more, saturating at 65535 (R173). -/
def saturatingSucc (v : Half) : Half := if v = 0xFFFF#16 then v else v + 1

/-- A counter is incremented by one (R173). -/
def countEvent (c : Counter) (s : State) : State :=
  { s with mgt := { s.mgt with counters := s.mgt.counters.set c (saturatingSucc (s.mgt.counters.get c)) } }

/-- The register address of a counter (11.3). -/
def counterAddr : Counter → BitVec 7
  | .damagedFrames => 0x40
  | .blindCycles => 0x41
  | .stepLosses => 0x42
  | .tablesLoaded => 0x43
  | .tablesSent => 0x44
  | .ingressRefused => 0x45
  | .rxNoContext => 0x46
  | .rxNoRoom => 0x47
  | .rxGapAbort => 0x48
  | .rxSenderAbort => 0x49
  | .rxStaleAbort => 0x4A
  | .rxRemovalAbort => 0x4B
  | .steerDiscard => 0x4C
  | .queueOverflow0 => 0x4D
  | .queueOverflow1 => 0x4E
  | .queueOverflow2 => 0x4F
  | .queueOverflow3 => 0x50

/-- The counter of a register address, where there is one (11.3). -/
def counterOfAddr (addr : BitVec 7) : Option Counter :=
  [Counter.damagedFrames, .blindCycles, .stepLosses, .tablesLoaded, .tablesSent, .ingressRefused, .rxNoContext,
    .rxNoRoom, .rxGapAbort, .rxSenderAbort, .rxStaleAbort, .rxRemovalAbort, .steerDiscard, .queueOverflow0,
    .queueOverflow1, .queueOverflow2, .queueOverflow3].find? (fun c => counterAddr c == addr)

/-- The overflow counter of a delivery queue (R139). -/
def overflowCounter : Class → Counter
  | 0 => .queueOverflow0
  | 1 => .queueOverflow1
  | 2 => .queueOverflow2
  | 3 => .queueOverflow3

/-! ### The profile's values -/

/-- The line size N (R166). -/
def Profile.lineSize (p : Profile) : Nat := p.n.toNat

/-- The budget B (R166). -/
def Profile.budget (p : Profile) : Nat := p.b.toNat

/-- The Express cap A (R166). -/
def Profile.cap (p : Profile) : Nat := p.a.toNat

/-- The quantum Q[c] of a shared class (R166); class 0 has none, and 0 stands for it. -/
def Profile.quantum (p : Profile) : Class → Nat
  | 0 => 0
  | 1 => p.q1.toNat
  | 2 => p.q2.toNat
  | 3 => p.q3.toNat

/-- The silence limit (R166). -/
def Profile.limit (p : Profile) : Nat := p.silence.toNat

/-- The profile check: the low 8 bits of the CRC-16 over N, B, A, Q1, Q2, Q3 and the silence limit (R167). -/
def Profile.check (p : Profile) : Byte :=
  (crc16 [p.n.setWidth 8, p.b, p.a, p.q1.setWidth 8, p.q2.setWidth 8, p.q3.setWidth 8,
    p.silence.setWidth 8]).setWidth 8

/-- The own station number (R166). -/
def ownNumber (s : State) : Station := s.mgt.settings.station.toFin

/-- The own profile check (R167). -/
def ownCheck (s : State) : Byte := s.mgt.profile.check

/-- The JOIN validation of the stored values: the first check that fails, in the order of R167, or None. -/
def joinValidation (p : Profile) (l : LocalSettings) : JoinRefusal :=
  if p.lineSize < 2 || 16 < p.lineSize then .lineSize
  else if p.budget < 8 || 128 < p.budget then .budget
  else if p.budget < p.cap then .expressCap
  else if [p.quantum 1, p.quantum 2, p.quantum 3].any (fun q => q < 1 || 32 < q) then .quantum
  else if p.limit < 2 || 7 < p.limit then .silenceLimit
  else if p.lineSize ≤ l.station.toNat then .stationNumber
  else if [l.weights.c0, l.weights.c1, l.weights.c2, l.weights.c3].any
      (fun w => w.toNat < 1 || 8 < w.toNat) then .weight
  else .none

end Sys2Proof.Machine
end

