-- ==== Sys2Proof/Machine/Operands.lean ====
section
/-! DEFINITION. The operand forms: line frames as bytes and bits (11.1), the judgment of a reception (R2, R4, R7),
the serialised schedule state (R65), and the words of the tributary port (11.2). -/

namespace Sys2Proof.Machine

/-! ### Bytes and bits -/

/-- The byte whose bits, most significant first, are given (11.1, Outer form). -/
def byteOfBits (b7 b6 b5 b4 b3 b2 b1 b0 : Bool) : Byte :=
  BitVec.ofBool b7 ++ BitVec.ofBool b6 ++ BitVec.ofBool b5 ++ BitVec.ofBool b4
    ++ BitVec.ofBool b3 ++ BitVec.ofBool b2 ++ BitVec.ofBool b1 ++ BitVec.ofBool b0

/-- The first byte of a bit stream and the bits after it. -/
def takeByte : List Bool → Option (Byte × List Bool)
  | b7 :: b6 :: b5 :: b4 :: b3 :: b2 :: b1 :: b0 :: rest => some (byteOfBits b7 b6 b5 b4 b3 b2 b1 b0, rest)
  | _ => none

/-- The first `n` bytes of a bit stream and the bits after them. -/
def takeBytes : Nat → List Bool → Option (List Byte × List Bool)
  | 0, bits => some ([], bits)
  | n + 1, bits =>
    match takeByte bits with
    | none => none
    | some (b, rest) =>
      match takeBytes n rest with
      | none => none
      | some (bs, rest') => some (b :: bs, rest')

/-- The high byte of a 16-bit number. -/
def hiByte (h : Half) : Byte := h.extractLsb' 8 8

/-- The low byte of a 16-bit number. -/
def loByte (h : Half) : Byte := h.extractLsb' 0 8

/-- The 16-bit number of a high and a low byte. -/
def halfOf (hi lo : Byte) : Half := hi ++ lo

/-- The preamble byte 0xAA and the start delimiter 0x9B (11.1). -/
def syncBytes : List Byte := [0xAA, 0x9B]

/-- The bits of the preamble and the start delimiter. -/
def syncBits : List Bool := syncBytes.flatMap byteBits

/-- The bits after the start delimiter, where one is found after a preamble (R2, condition 1): the first place in
the carrier at which the preamble byte stands with the delimiter behind it. DESIGN CHOICE (notes/assumptions/5.md). -/
def afterDelimiter : List Bool → Option (List Bool)
  | [] => none
  | b :: bits => if syncBits.isPrefixOf (b :: bits) then some ((b :: bits).drop 16) else afterDelimiter bits

/-! ### Frame kinds -/

/-- The six frame kinds (R3). -/
inductive FrameKind where
  | start
  | bid
  | segment
  | empty
  | abort
  | table
  deriving DecidableEq, Repr

/-- The kind codes (11.1). -/
def FrameKind.code : FrameKind → Byte
  | .start => 0x5A
  | .bid => 0x3C
  | .segment => 0xA5
  | .empty => 0x66
  | .abort => 0x99
  | .table => 0xC3

/-- The body lengths in bytes (11.1). -/
def FrameKind.bodyLength : FrameKind → Nat
  | .start => 2
  | .bid => 10
  | .segment => 40
  | .empty => 2
  | .abort => 3
  | .table => 74

/-- The kind of a code; any other code names none (R2, condition 2; R175). -/
def FrameKind.ofCode (code : Byte) : Option FrameKind :=
  [FrameKind.start, .bid, .segment, .empty, .abort, .table].find? (fun k => k.code == code)

/-- The kind of a frame. -/
def Frame.kind : Frame → FrameKind
  | .start _ _ => .start
  | .bid _ => .bid
  | .segment _ => .segment
  | .empty _ => .empty
  | .abort _ => .abort
  | .table _ => .table

/-! ### Bodies (11.1); bits without a field are sent as 0 (R175) -/

/-- A byte with a station number in bits 7:4, a two-bit number in bits 3:2 and two flags below. -/
def headByte (st : Station) (mid : Class) (b1 b0 : Bool) : Byte :=
  BitVec.ofFin (w := 4) st ++ BitVec.ofFin (w := 2) mid ++ BitVec.ofBool b1 ++ BitVec.ofBool b0

/-- The station number in bits 7:4. -/
def headStation (b : Byte) : Station := (b.extractLsb' 4 4).toFin

/-- The class in bits 3:2. -/
def headClass (b : Byte) : Class := (b.extractLsb' 2 2).toFin

/-- The destination kind code and number (11.1): the number of All is sent as 0 (notes/assumptions/18.md). -/
def destByte : Destination → Byte
  | .station k => 0#2 ++ 0#2 ++ BitVec.ofFin (w := 4) k
  | .group g => 1#2 ++ 0#2 ++ 0#1 ++ BitVec.ofFin (w := 3) g
  | .all => 2#2 ++ 0#6
  | .reserved k => 3#2 ++ 0#2 ++ BitVec.ofFin (w := 4) k

/-- The destination of a kind code and a number (11.1, 11.2): bit 3 of the number is not read for a Group
(R175, R176). -/
def destOf (code : BitVec 2) (num : BitVec 4) : Destination :=
  match code.toFin with
  | 0 => .station num.toFin
  | 1 => .group (num.setWidth 3).toFin
  | 2 => .all
  | 3 => .reserved num.toFin

/-- The body of a BID (11.1). -/
def bidBody (f : BidFrame) : List Byte :=
  [headByte f.station (if f.leaving then 1 else 0) f.resync f.joining, hiByte f.cycle, loByte f.cycle, f.check,
    hiByte f.digest, loByte f.digest, f.demand.c0, f.demand.c1, f.demand.c2, f.demand.c3]

/-- The body of a SEGMENT (11.1): bits 15:11 of the length and the bits above the index are sent as 0 (R175). -/
def segmentBody (f : SegmentFrame) : List Byte :=
  headByte f.src f.cls f.first f.last :: destByte f.dest :: f.seq :: f.tag :: hiByte (f.len.setWidth 16)
    :: loByte (f.len.setWidth 16) :: f.index.setWidth 8 :: f.remain :: f.payload

/-- The body of a TABLE (11.1). -/
def tableBody (f : TableFrame) : List Byte :=
  headByte f.src 0 false false :: f.check :: (f.body ++ [hiByte f.digest, loByte f.digest, f.remain])

/-- The body bytes of a frame (11.1). -/
def Frame.body : Frame → List Byte
  | .start st check => [headByte st 0 false false, check]
  | .bid f => bidBody f
  | .segment f => segmentBody f
  | .empty f => [headByte f.src f.cls false false, f.remain]
  | .abort f => [headByte f.src f.cls false false, f.seq, f.remain]
  | .table f => tableBody f

/-- The bytes of a frame on the line: preamble, delimiter, kind code, body and check, high byte first (11.1, R22). -/
def Frame.bytes (f : Frame) : List Byte :=
  let checked := f.kind.code :: f.body
  syncBytes ++ checked ++ [hiByte (crc16 checked), loByte (crc16 checked)]

/-- The bits TXD carries for a frame, first bit first (11.1). -/
def Frame.bits (f : Frame) : List Bool := f.bytes.flatMap byteBits

/-- The frame of a kind and a body of that kind's length (11.1); bits without a field are not read (R175). -/
def decodeBody (kind : FrameKind) (body : List Byte) : Option Frame :=
  match kind, body with
  | .start, [b0, b1] => some (.start (headStation b0) b1)
  | .bid, [b0, b1, b2, b3, b4, b5, b6, b7, b8, b9] =>
    some (.bid ⟨headStation b0, halfOf b1 b2, b0.getLsbD 2, b0.getLsbD 1, b0.getLsbD 0, b3, halfOf b4 b5,
      ⟨b6, b7, b8, b9⟩⟩)
  | .segment, b0 :: b1 :: b2 :: b3 :: b4 :: b5 :: b6 :: b7 :: payload =>
    some (.segment ⟨headStation b0, headClass b0, b0.getLsbD 1, b0.getLsbD 0,
      destOf (b1.extractLsb' 6 2) (b1.extractLsb' 0 4), b2, b3, (halfOf b4 b5).setWidth 11, b6.setWidth 5, b7,
      payload⟩)
  | .empty, [b0, b1] => some (.empty ⟨headStation b0, headClass b0, b1⟩)
  | .abort, [b0, b1, b2] => some (.abort ⟨headStation b0, headClass b0, b1, b2⟩)
  | .table, b0 :: b1 :: rest =>
    some (.table ⟨headStation b0, b1, rest.take 69, halfOf (rest.getD 69 0) (rest.getD 70 0), rest.getD 71 0⟩)
  | _, _ => none

/-- The frame a reception carries, where conditions 1 to 4 of R2 hold: a delimiter, one of the six codes, a body of
exactly its kind's length with the check behind it and at most one byte time of carrier after it, and a check that
equals the CRC. -/
def frameOfBits (bits : List Bool) : Option Frame :=
  match afterDelimiter bits with
  | none => none
  | some rest =>
    match takeByte rest with
    | none => none
    | some (code, rest) =>
      match FrameKind.ofCode code with
      | none => none
      | some kind =>
        match takeBytes kind.bodyLength rest with
        | none => none
        | some (body, rest) =>
          match takeBytes 2 rest with
          | none => none
          | some (check, tail) =>
            if tail.length ≤ 8 && check == [hiByte (crc16 (code :: body)), loByte (crc16 (code :: body))] then
              decodeBody kind body
            else none

/-- The kind code read after the start delimiter is TABLE's (R7). -/
def tableCodeRead (bits : List Bool) : Bool :=
  match afterDelimiter bits with
  | none => false
  | some rest =>
    match takeByte rest with
    | none => false
    | some (code, _) => code == FrameKind.table.code

/-! ### Field checks (R4) and the parts of the cycle (R7) -/

/-- The part of the cycle a reception is judged in (R7, R10, R12). An unslotted reception is judged with no cycle
position, or while one is held (`unslottedHeld`). -/
inductive CyclePart where
  | bidSlot (k : Nat)
  | tableBlock
  | dataSlot (i : Nat)
  | unslotted
  | unslottedHeld
  deriving DecidableEq, Repr

/-- The number of segments of a message of `len` bytes: ceil(len/32) (00_scope, Sizes). -/
def segmentCount (len : Nat) : Nat := (len + 31) / 32

/-- The kinds allowed in a part of the cycle (R7): while a position is held, a START is in some part of the cycle. -/
def kindAllowed : CyclePart → FrameKind → Bool
  | .bidSlot _, k => k == .bid
  | .tableBlock, k => k == .table
  | .dataSlot _, k => k == .segment || k == .empty || k == .abort
  | .unslotted, _ => true
  | .unslottedHeld, k => k != .start

/-- The bound of R4 on the remaining count of a SEGMENT, EMPTY or ABORT. -/
def remainOk (budget : Nat) (part : CyclePart) (remain : Byte) : Bool :=
  match part with
  | .dataSlot i => decide (remain.toNat + i + 1 ≤ budget)
  | _ => decide (remain.toNat + 1 ≤ budget)

/-- The field checks of R4 against the own profile, in a part of the cycle. -/
def fieldsOk (p : Profile) (part : CyclePart) : Frame → Bool
  | .start st _ => decide (st.val < p.lineSize)
  | .bid f =>
    decide (f.station.val < p.lineSize) &&
      (match part with
       | .bidSlot k => f.station.val == k
       | _ => true)
  | .segment f =>
    decide (f.src.val < p.lineSize) && decide (1 ≤ f.len.toNat) && decide (f.len.toNat ≤ 1024)
      && decide (f.index.toNat < segmentCount f.len.toNat) && (f.first == decide (f.index.toNat = 0))
      && (f.last == decide (f.index.toNat + 1 = segmentCount f.len.toNat)) && remainOk p.budget part f.remain
  | .empty f => decide (f.src.val < p.lineSize) && remainOk p.budget part f.remain
  | .abort f => decide (f.src.val < p.lineSize) && remainOk p.budget part f.remain
  | .table f => decide (f.src.val < p.lineSize) && decide (f.remain.toNat + 4 ≤ p.budget)

/-- The Valid frame of a reception heard in a part of the cycle, by conditions 1 to 6 of R2 save the times of R8. -/
def judgeBits (p : Profile) (part : CyclePart) (bits : List Bool) : Option Frame :=
  match frameOfBits bits with
  | none => none
  | some f => if kindAllowed part f.kind && fieldsOk p part f then some f else none

/-- The remaining count a data-phase frame carries (R6, R16). -/
def Frame.remaining : Frame → Option Nat
  | .start _ _ => none
  | .bid _ => none
  | .segment f => some f.remain.toNat
  | .empty f => some f.remain.toNat
  | .abort f => some f.remain.toNat
  | .table f => some f.remain.toNat

/-- The length of the slot a data-phase frame occupies (R16): 64 microseconds for a TABLE, else 16. -/
def Frame.slotLength (f : Frame) : Time := if f.kind = .table then us 64 else us 16

/-! ### The serialised schedule state (R65, 11.1) -/

/-- Every station number, in increasing order. -/
def stations : List Station := [0, 1, 2, 3, 4, 5, 6, 7, 8, 9, 10, 11, 12, 13, 14, 15]

/-- The row of a station (R64). -/
def Sched.row (d : Sched) (s : Station) : SchedRow := d.rows.getD s.val SchedRow.clear

/-- The deficit of a row in a shared class (R64); class 0 has none, and 0 stands for it. -/
def SchedRow.deficit (r : SchedRow) : Class → Nat
  | 0 => 0
  | 1 => r.d1
  | 2 => r.d2
  | 3 => r.d3

/-- Every row changed by `f`. -/
def Sched.mapRows (f : Station → SchedRow → SchedRow) (d : Sched) : Sched :=
  { d with rows := stations.map (fun s => f s (d.row s)) }

/-- The members, in increasing order (R64). -/
def Sched.members (d : Sched) : List Station := stations.filter (fun s => (d.row s).member)

/-- The membership as the MEMBERS register and the serialisation place it: bit k for station k (11.1, 11.3). -/
def Sched.memberBits (d : Sched) : Half :=
  stations.foldl (fun acc s => if (d.row s).member then acc ||| (1#16 <<< s.val) else acc) 0#16

/-- A number below 256 as a byte. -/
def natByte (n : Nat) : Byte := BitVec.ofNat 8 n

/-- The 69 bytes of the serialisation (R65). -/
def Sched.serialise (d : Sched) : List Byte :=
  [hiByte d.cycle, loByte d.cycle, natByte d.pointer, hiByte d.memberBits, loByte d.memberBits]
    ++ stations.map (fun s => natByte (d.row s).silence)
    ++ stations.flatMap (fun s => [natByte (d.row s).d1, natByte (d.row s).d2, natByte (d.row s).d3])

/-- The digest of a schedule state (R65). -/
def Sched.digest (d : Sched) : Half := crc16 d.serialise

/-- The schedule state a serialisation carries (R65, 11.1). -/
def Sched.ofBytes (bs : List Byte) : Sched where
  cycle := halfOf (bs.getD 0 0) (bs.getD 1 0)
  pointer := (bs.getD 2 0).toNat
  rows := stations.map (fun s =>
    ⟨(halfOf (bs.getD 3 0) (bs.getD 4 0)).getLsbD s.val, (bs.getD (5 + s.val) 0).toNat,
      (bs.getD (21 + 3 * s.val) 0).toNat, (bs.getD (22 + 3 * s.val) 0).toNat, (bs.getD (23 + 3 * s.val) 0).toNat⟩)

/-! ### Tributary words (11.2) -/

/-- The kind codes of IKIND and EKIND (11.2). -/
def WordKind.code : WordKind → BitVec 2
  | .body => 0
  | .head => 1
  | .tail => 2
  | .brk => 3

/-- The fields of a first ingress HEAD word (11.2, R176). -/
def firstHeadOf (w : Word) : FirstHead :=
  ⟨(w.extractLsb' 0 2).toFin, destOf (w.extractLsb' 8 2) (w.extractLsb' 16 4), w.getLsbD 4⟩

/-- The tag of a second ingress HEAD word (11.2). -/
def headTag (w : Word) : Byte := w.extractLsb' 0 8

/-- The length of a second ingress HEAD word, 0 to 2047 (11.2). -/
def headLength (w : Word) : Nat := (w.extractLsb' 16 11).toNat

/-- The number E of payload words of a message of `len` bytes (R155): 1 for length 0. -/
def payloadWords (len : Nat) : Nat := if len = 0 then 1 else (len + 3) / 4

/-- The four bytes of a payload word, first byte in the low-order bits (R153). -/
def wordBytes (w : Word) : List Byte :=
  [w.extractLsb' 0 8, w.extractLsb' 8 8, w.extractLsb' 16 8, w.extractLsb' 24 8]

/-- The status code of a delivered record (11.2). -/
def DeliveryStatus.code : DeliveryStatus → BitVec 3
  | .complete => 0
  | .gap => 1
  | .superseded => 2
  | .stale => 3
  | .removal => 4

/-- The kind code of a notice (11.2). -/
def NoticeKind.code : NoticeKind → BitVec 2
  | .sent => 0
  | .flushed => 1
  | .refused => 2

/-- The cause code of a notice (11.2). -/
def causeCode : Option RefusalCause → BitVec 3
  | none => 0
  | some .notActive => 1
  | some .queueFull => 2
  | some .badDestination => 3
  | some .malformed => 4
  | some .noRoom => 5
  | some .broken => 6

/-- The first HEAD word of a delivered record (11.2). -/
def deliveredHead1 (r : DeliveredRecord) : Word :=
  0#5 ++ r.status.code ++ r.tag ++ r.seq ++ 0#2 ++ BitVec.ofFin (w := 2) r.cls ++ BitVec.ofFin (w := 4) r.src

/-- The second HEAD word of a delivered record (11.2). -/
def deliveredHead2 (r : DeliveredRecord) : Word := 0#21 ++ BitVec.ofNat 11 r.len

/-- Payload word `n` of a record: message bytes 4n to 4n+3, zero beyond the record's length (R148). -/
def deliveredPayload (r : DeliveredRecord) (n : Nat) : Word :=
  let at' := fun k => if k < r.len then r.bufs.flatten.getD k 0 else 0
  at' (4 * n + 3) ++ at' (4 * n + 2) ++ at' (4 * n + 1) ++ at' (4 * n)

/-- The HEAD word of a notice (11.2): the sequence field is 0 where the sequence is absent. -/
def noticeHead (n : Notice) : Word :=
  1#1 ++ 0#7 ++ n.tag ++ n.seq.getD 0 ++ BitVec.ofBool n.partly ++ BitVec.ofBool n.seq.isSome
    ++ BitVec.ofFin (w := 2) n.cls ++ 0#2 ++ n.kind.code

/-- The TAIL word of a notice (11.2). -/
def noticeTail (n : Notice) : Word := 0#16 ++ natByte n.lost ++ 0#5 ++ causeCode n.cause

/-- How many words a record is emitted as: two HEAD words and ceil(L/4) payload words (R148), or one HEAD and one
TAIL for a notice (R149). -/
def egressWordCount : EgressRecord → Nat
  | .delivered r => 2 + (r.len + 3) / 4
  | .notice _ => 2

/-- Word `i` of a record in emission (R148, R149, R161). -/
def egressWord (rec : EgressRecord) (i : Nat) : WordKind × Word :=
  match rec with
  | .delivered r =>
    if i = 0 then (.head, deliveredHead1 r)
    else if i = 1 then (.head, deliveredHead2 r)
    else (if i + 1 = egressWordCount rec then .tail else .body, deliveredPayload r (i - 2))
  | .notice n => if i = 0 then (.head, noticeHead n) else (.tail, noticeTail n)

end Sys2Proof.Machine
end

