-- ==== Sys2Proof/Machine/Allocation.lean ====
section
/-! DEFINITION. ALC: budget, rotation order, the passes, and the grant list (chapter 5). -/

namespace Sys2Proof.Machine

/-- ALC's working account of one station of E (R79): its demands d, its copy of the deficits D, the slots granted so
far, and the unmet demand u. Class 0 has no deficit. -/
structure Account where
  station : Station
  demand  : Four Nat
  deficit : Four Nat
  granted : Four Nat
  unmet   : Four Nat
  deriving DecidableEq, Repr

/-- The account of a station at the request (R79). -/
def openAccount (st : Station) (demand : Four Nat) (row : SchedRow) : Account where
  station := st
  demand := demand
  deficit := ⟨0, row.d1, row.d2, row.d3⟩
  granted := Four.all 0
  unmet := Four.all 0

/-- The starting budget R (R80): B, or B - 4 where a table transfer is placed. -/
def startBudget (budget : Nat) (placed : Bool) : Nat := if placed then budget - 4 else budget

/-- The rotation order (R81): the stations of E, which stand in increasing order, from the first at or after P,
wrapping around. -/
def rotationOrder (eligible : List Station) (pointer : Nat) : List Station :=
  eligible.filter (fun s => decide (pointer ≤ s.val)) ++ eligible.filter (fun s => decide (s.val < pointer))

/-- The Express pass over the rotation order with allowance X (R82). -/
def expressPass : Nat → List Account → List Account
  | _, [] => []
  | x, a :: rest =>
    let e := min a.demand.c0 x
    { a with granted := a.granted.set 0 e } :: expressPass (x - e) rest

/-- The slots the Express pass granted (R82). -/
def expressTotal (as : List Account) : Nat := (as.map (fun a => a.granted.c0)).sum

/-- The deficit add of one class (R83). -/
def addDeficit (quantum : Class → Nat) (c : Class) (a : Account) : Account :=
  if 0 < a.demand.get c then
    { a with deficit := a.deficit.set c (min (a.deficit.get c + quantum c) (4 * quantum c)) }
  else a

/-- The deficit add (R83). -/
def deficitAdd (quantum : Class → Nat) (a : Account) : Account :=
  addDeficit quantum 3 (addDeficit quantum 2 (addDeficit quantum 1 a))

/-- The shared pass at one station and class with budget R (R84). -/
def shareOne (c : Class) (p : Account × Nat) : Account × Nat :=
  let g := min (min (p.1.demand.get c) (p.1.deficit.get c)) p.2
  ({ p.1 with deficit := p.1.deficit.set c (p.1.deficit.get c - g), granted := p.1.granted.set c g,
              unmet := p.1.unmet.set c (p.1.demand.get c - g) }, p.2 - g)

/-- The shared pass over the rotation order (R84): the accounts and the budget left. -/
def sharedPass : Nat → List Account → List Account × Nat
  | r, [] => ([], r)
  | r, a :: rest =>
    let p := shareOne 3 (shareOne 2 (shareOne 1 (a, r)))
    let q := sharedPass p.2 rest
    (p.1 :: q.1, q.2)

/-- The fill pass at one station and class with budget R (R85). -/
def fillOne (c : Class) (p : Account × Nat) : Account × Nat :=
  let f := min (p.1.unmet.get c) p.2
  ({ p.1 with granted := p.1.granted.set c (p.1.granted.get c + f), unmet := p.1.unmet.set c (p.1.unmet.get c - f) },
    p.2 - f)

/-- The fill pass over the rotation order (R85). -/
def fillPass : Nat → List Account → List Account × Nat
  | r, [] => ([], r)
  | r, a :: rest =>
    let p := fillOne 3 (fillOne 2 (fillOne 1 (a, r)))
    let q := fillPass p.2 rest
    (p.1 :: q.1, q.2)

/-- The deficit reset of one class (R86). -/
def resetDeficit (c : Class) (a : Account) : Account :=
  if a.granted.get c = a.demand.get c then { a with deficit := a.deficit.set c 0 } else a

/-- The deficit reset (R86). -/
def deficitReset (a : Account) : Account := resetDeficit 3 (resetDeficit 2 (resetDeficit 1 a))

/-- The accounts after every pass (R80 to R86), in rotation order. -/
def settleAccounts (p : Profile) (placed : Bool) (as : List Account) : List Account :=
  let r := startBudget p.budget placed
  let expressed := expressPass (min p.cap r) as
  let shared := sharedPass (r - expressTotal expressed) (expressed.map (deficitAdd p.quantum))
  (fillPass shared.2 shared.1).1.map deficitReset

/-- The entries of one station in class order, without their first slots (R88). -/
def accountEntries (a : Account) : List (Station × Class × Nat) :=
  [((0 : Class), a.granted.c0), (1, a.granted.c1), (2, a.granted.c2), (3, a.granted.c3)].filterMap
    (fun e => if 0 < e.2 then some (a.station, e.1, e.2) else none)

/-- The entries numbered from data slot `first` (R89). -/
def numberEntries : Nat → List (Station × Class × Nat) → List Grant
  | _, [] => []
  | first, (st, c, n) :: rest => ⟨st, c, n, first⟩ :: numberEntries (first + n) rest

/-- The data slots a list of entries gives (R89). -/
def slotsGranted (es : List Grant) : Nat := (es.map Grant.count).sum

/-- The grant list with T, from the settled accounts (R88, R89). -/
def grantListOf (placed : Bool) (as : List Account) : GrantList :=
  let base := if placed then 4 else 0
  let entries := numberEntries base (as.flatMap accountEntries)
  ⟨entries, placed, base + slotsGranted entries⟩

/-- The new rotation pointer (R87): the station after the start station, modulo 16. -/
def nextPointer (order : List Station) (pointer : Nat) : Nat :=
  match order with
  | [] => pointer
  | st :: _ => (st.val + 1) % 16

/-- The entry that holds data slot `i` (R89). -/
def entryAt (g : GrantList) (i : Nat) : Option Grant :=
  g.entries.find? (fun e => decide (e.first ≤ i) && decide (i < e.first + e.count))

/-- The entry of an own granted data slot `i` (R91). -/
def ownEntryAt (g : GrantList) (own : Station) (i : Nat) : Option Grant :=
  match entryAt g i with
  | none => none
  | some e => if e.station = own then some e else none

/-- The data slots that ALC reports as the table block (R92): none while no grant list is held. -/
def inTableBlock (a : Alc) (i : Nat) : Bool :=
  match a.grants with
  | none => false
  | some g => g.placed && decide (i < 4)

end Sys2Proof.Machine
end

