-- ==== Sys2Proof/Config.lean ====
section
/-! DEFINITION. The free values: what the manual leaves open and the model does not choose. -/

namespace Sys2Proof

/-- FREE VALUE (notes/assumptions/8.md). Which of the contexts still to be aborted by one removal or one session
end is taken next; applied to the model's counter `State.freeIx`. R130 and R132 give these hand-offs no order. -/
opaque Config.contextPick : Nat → Nat

/-- FREE VALUE (notes/assumptions/9.md). Whether TXQ takes its session end before RAS takes its own, in one entry
into STOPPED or HALTED; applied to `State.freeIx`. R45 gives the two no order. -/
opaque Config.txqEndsFirst : Nat → Bool

end Sys2Proof
end

