-- ==== Sys2Proof/Machine/Delivery.lean ====
section
/-! DEFINITION. DLV and the egress side of TRB: steering, delivery queues, notice queue, arbiter, emission (chapter 8,
R161 to R164). -/

namespace Sys2Proof.Machine

/-! ### Buffer return and arbitration -/

/-- `n` buffers go back to the free list of the receive pool (R120). -/
def returnBuffers (n : Nat) (s : State) : State := { s with ras := { s.ras with free := s.ras.free + n } }

/-- The first of the listed delivery queues that holds a record. -/
def firstHolding (qs : Four (List DeliveredRecord)) : List Class → Option Class
  | [] => none
  | q :: rest => if (qs.get q).isEmpty then firstHolding qs rest else some q

/-- The arbiter's choice in Strict mode: the lowest-numbered queue that holds a record (R145). -/
def chooseStrict (d : Dlv) : Option Class := firstHolding d.queues [0, 1, 2, 3]

/-- The arbiter's choice in Weighted mode, with the run count after it (R146): the run goes on while queue p holds a
record and r is below W[p]; otherwise the search from p+1, modulo 4, begins a run of 1. -/
def chooseWeighted (w : Four (BitVec 4)) (d : Dlv) : Option (Class × Nat) :=
  if !(d.queues.get d.pointer).isEmpty && decide (d.run < (w.get d.pointer).toNat) then
    some (d.pointer, d.run + 1)
  else
    match firstHolding d.queues [d.pointer + 1, d.pointer + 2, d.pointer + 3, d.pointer] with
    | none => none
    | some q => some (q, 1)

/-- The egress mode is Weighted (R166); codes 2 and 3 are taken as Strict (R177). -/
def weightedMode (s : State) : Bool := s.mgt.settings.mode == 1

/-- The head of delivery queue `q` leaves its queue, and its emission begins (R147, R161). -/
def beginDelivery (q : Class) (s : State) : State :=
  match s.dlv.queues.get q with
  | [] => s
  | r :: rest =>
    { s with dlv := { s.dlv with queues := s.dlv.queues.set q rest },
             trb := { s.trb with framer := .emitting (.delivered r) 0 } }

/-- The arbiter's choice among the delivery queues by the egress mode (R144 to R146). -/
def arbitrateDelivery (s : State) : State :=
  if weightedMode s then
    match chooseWeighted s.mgt.settings.weights s.dlv with
    | none => s
    | some (q, r) => beginDelivery q { s with dlv := { s.dlv with pointer := q, run := r } }
  else
    match chooseStrict s.dlv with
    | none => s
    | some q => beginDelivery q s

/-- A record boundary (R144): the notice queue's head first, then a delivery queue by the egress mode. While a record
is in emission or a BREAK is pending, nothing is chosen (R144, R163). -/
def arbitrate (s : State) : State :=
  match s.trb.framer with
  | .idle =>
    match s.dlv.notices with
    | n :: rest =>
      { s with dlv := { s.dlv with notices := rest }, trb := { s.trb with framer := .emitting (.notice n) 0 } }
    | [] => arbitrateDelivery s
  | .emitting _ _ => s
  | .breakPending => s

/-! ### Notices -/

/-- A notice is raised (R142): it enters the notice queue with the lost count, which is then 0, or it is discarded,
the lost count rises (to at most 255) and NOTICELOSS is set. An arrival at idle egress is a record boundary (R144). -/
def takeNotice (n : Notice) (s : State) : State :=
  if s.dlv.notices.length < 16 then
    arbitrate { s with dlv := { s.dlv with notices := s.dlv.notices ++ [{ n with lost := s.dlv.lost }], lost := 0 } }
  else
    raiseEvent .noticeLoss { s with dlv := { s.dlv with lost := if s.dlv.lost < 255 then s.dlv.lost + 1 else 255 } }

/-- Notices raised one after the other. -/
def takeNotices (ns : List Notice) (s : State) : State := ns.foldl (fun s n => takeNotice n s) s

/-- A Refused notice of TXQ or TRB, counted in IngressRefused whether or not it is kept (R113, R158). -/
def raiseRefused (cause : RefusalCause) (cls : Class) (tag : Byte) (s : State) : State :=
  takeNotice ⟨.refused, cls, none, tag, some cause, false, 0⟩ (countEvent .ingressRefused s)

/-! ### Steering and delivery queues -/

/-- An entry matches a record of class `cls`, source `src` and tag `tag` (R137). An entry whose action is 5 to 7,
whose class match is 5 to 7 or whose source match is 17 to 31 takes part in no match (R177). -/
def SteerEntry.matches (e : SteerEntry) (cls : Class) (src : Station) (tag : Byte) : Bool :=
  e.valid && decide (e.action.toNat ≤ 4)
    && (e.clsM.toNat == 4 || e.clsM.toNat == cls.val)
    && (e.srcM.toNat == 16 || e.srcM.toNat == src.val)
    && (tag &&& e.tagMask) == (e.tagV &&& e.tagMask)

/-- What steering decides: a delivery queue, or none where the record is discarded (R137). -/
def steer (entries : List SteerEntry) (cls : Class) (src : Station) (tag : Byte) : Option Class :=
  match entries.find? (fun e => e.matches cls src tag) with
  | none => some cls
  | some e =>
    match e.action.toNat with
    | 0 => some 0
    | 1 => some 1
    | 2 => some 2
    | 3 => some 3
    | _ => none

/-- A record is offered to delivery queue `q` (R139): appended, with a record boundary where egress is idle (R144),
or dropped with its buffers returned and QueueOverflow`q` counted. -/
def offerRecord (q : Class) (r : DeliveredRecord) (s : State) : State :=
  if (s.dlv.queues.get q).length < 32 then
    arbitrate { s with dlv := { s.dlv with queues := s.dlv.queues.set q (s.dlv.queues.get q ++ [r]) } }
  else countEvent (overflowCounter q) (returnBuffers r.bufs.length s)

/-- RAS hands a record to DLV (R132), which steers it (R137). -/
def handOff (r : DeliveredRecord) (s : State) : State :=
  match steer s.mgt.settings.steer r.cls r.src r.tag with
  | some q => offerRecord q r s
  | none => countEvent .steerDiscard (returnBuffers r.bufs.length s)

/-! ### Emission -/

/-- The buffers a record in emission holds on loan (R147, R149). -/
def EgressRecord.buffers : EgressRecord → Nat
  | .delivered r => r.bufs.length
  | .notice _ => 0

/-- EVALID (R161, R163, R164): a word is offered. -/
def evalidPin (s : State) : Bool :=
  !s.pins.resetPin &&
    (match s.trb.framer with
     | .idle => false
     | .emitting _ _ => true
     | .breakPending => !s.breakHeld)

/-- The word offered on EKIND and EDATA while EVALID is high (R161, R163); the data of a BREAK is 0 (11.2). -/
def offeredWord (s : State) : Option (WordKind × Word) :=
  if evalidPin s then
    match s.trb.framer with
    | .idle => none
    | .emitting rec i => some (egressWord rec i)
    | .breakPending => some (.brk, 0)
  else none

/-- The local side takes the offered word (R161 to R163): the next word is offered, or the emission ends, its buffers
return (R148), and DLV takes a record boundary (R144). -/
def takeEgressWord (s : State) : State :=
  match s.trb.framer with
  | .idle => s
  | .emitting rec i =>
    if i + 1 < egressWordCount rec then { s with trb := { s.trb with framer := .emitting rec (i + 1) } }
    else arbitrate (returnBuffers rec.buffers { s with trb := { s.trb with framer := .idle } })
  | .breakPending => arbitrate { s with trb := { s.trb with framer := .idle } }

end Sys2Proof.Machine
end

