-- ==== Sys2Proof/Machine/Reassembly.lean ====
section
/-! DEFINITION. RAS: the receive filter, the reassembly contexts, aborts and hand-offs (chapter 7). -/

namespace Sys2Proof.Machine

/-- A buffer nothing has been written into. Its bytes are never emitted (notes/assumptions/17.md). -/
def blankBuffer : List Byte := List.replicate 32 0

/-- The context of a key (R121). -/
def findContext (src : Station) (cls : Class) (s : State) : Option Context :=
  s.ras.contexts.find? (fun c => c.src == src && c.cls == cls)

/-- The counter of an abort reason (R128). -/
def abortCounter : AbortReason → Counter
  | .gap => .rxGapAbort
  | .superseded => .rxGapAbort
  | .stale => .rxStaleAbort
  | .removal => .rxRemovalAbort
  | .senderAbort => .rxSenderAbort

/-- The status of the Truncated record an abort delivers (R129, R132); a SenderAbort delivers none. -/
def truncatedStatus : AbortReason → Option DeliveryStatus
  | .gap => some .gap
  | .superseded => some .superseded
  | .stale => some .stale
  | .removal => some .removal
  | .senderAbort => none

/-- The record of a context (R132). -/
def contextRecord (c : Context) (len : Nat) (status : DeliveryStatus) (bufs : List (List Byte)) : DeliveredRecord :=
  ⟨c.src, c.cls, c.tag, c.seq, len, status, bufs⟩

/-- A context is aborted (R128, R129): it leaves the table and is counted; its buffers return, or its prefix is
handed to DLV as Truncated and the buffers never filled return. -/
def abortContext (reason : AbortReason) (c : Context) (s : State) : State :=
  let s := countEvent (abortCounter reason) { s with ras := { s.ras with contexts := s.ras.contexts.erase c } }
  match truncatedStatus reason, s.mgt.settings.damaged with
  | some status, true =>
    handOff (contextRecord c (32 * c.next) status (c.bufs.take c.next))
      (returnBuffers (c.bufs.drop c.next).length s)
  | _, _ => returnBuffers c.bufs.length s

/-- The contexts in the order in which they are aborted together, and the next free-value index. The order is a free
value: R130 and R132 give none (notes/assumptions/8.md). `fuel` is the number of contexts. -/
def pickOrder : Nat → Nat → List Context → List Context × Nat
  | 0, ix, cs => (cs, ix)
  | fuel + 1, ix, cs =>
    match cs with
    | [] => ([], ix)
    | [c] => ([c], ix)
    | c :: d :: rest =>
      let i := Config.contextPick ix % (c :: d :: rest).length
      let p := pickOrder fuel (ix + 1) ((c :: d :: rest).eraseIdx i)
      ((c :: d :: rest).getD i c :: p.1, p.2)

/-- Several contexts are aborted together, in the free order. -/
def abortContexts (reason : AbortReason) (cs : List Context) (s : State) : State :=
  let p := pickOrder cs.length s.freeIx cs
  p.1.foldl (fun s c => abortContext reason c s) { s with freeIx := p.2 }

/-- SSU signals the removal of stations: the contexts of each are aborted with reason Removal (R69, R130). -/
def removeSources (removed : List Station) (s : State) : State :=
  abortContexts .removal (s.ras.contexts.filter (fun c => removed.contains c.src)) s

/-- A First segment is for this station (R123); destination kind code 3 is not (R175). -/
def forThisStation (s : State) : Destination → Bool
  | .station k => k == ownNumber s
  | .group g => s.mgt.settings.groups.getLsbD g.val
  | .all => true
  | .reserved _ => false

/-- Step 2 of R124 for a First segment that is for this station, taken at `t`: the message is dropped for want of a
context or of buffers, completes at once (R125), or opens a context (R121, R122). -/
def openContext (t : Time) (f : SegmentFrame) (s : State) : State :=
  let bufs := f.payload :: List.replicate (segmentCount f.len.toNat - 1) blankBuffer
  if 32 ≤ s.ras.contexts.length then countEvent .rxNoContext s
  else if s.ras.free < bufs.length then countEvent .rxNoRoom s
  else
    let c : Context := ⟨f.src, f.cls, f.seq, f.tag, f.dest, f.len.toNat, 1, bufs, t⟩
    let s := { s with ras := { s.ras with free := s.ras.free - bufs.length } }
    if f.last then handOff (contextRecord c c.len .complete bufs) s
    else { s with ras := { s.ras with contexts := s.ras.contexts ++ [c] } }

/-- A First segment from another source (R124): it supersedes an open context of its key, then opens its own where it
is for this station. -/
def firstSegment (t : Time) (f : SegmentFrame) (s : State) : State :=
  let s :=
    match findContext f.src f.cls s with
    | some c => abortContext .superseded c s
    | none => s
  if forThisStation s f.dest then openContext t f s else s

/-- A later segment continues a context (R126). -/
def continues (c : Context) (f : SegmentFrame) : Bool :=
  f.seq == c.seq && f.index.toNat == c.next && f.tag == c.tag && f.dest == c.dest && f.len.toNat == c.len

/-- A later segment (R123, R126, R127): stored, with the message handed on where it was the Last; or the context is
aborted with reason Gap; or ignored where no context of its key is open. -/
def laterSegment (t : Time) (f : SegmentFrame) (s : State) : State :=
  match findContext f.src f.cls s with
  | none => s
  | some c =>
    if continues c f then
      let c' := { c with bufs := c.bufs.set c.next f.payload, next := c.next + 1, since := t }
      if f.last then
        handOff (contextRecord c' c'.len .complete c'.bufs)
          { s with ras := { s.ras with contexts := s.ras.contexts.erase c } }
      else { s with ras := { s.ras with contexts := s.ras.contexts.map (fun x => if x = c then c' else x) } }
    else abortContext .gap c s

/-- RAS takes a SEGMENT at `t` (R123): one of the own number is ignored. -/
def takeSegment (t : Time) (f : SegmentFrame) (s : State) : State :=
  if f.src = ownNumber s then s
  else if f.first then firstSegment t f s
  else laterSegment t f s

/-- RAS takes an ABORT (R131): one of the own number is ignored. -/
def takeAbort (f : AbortFrame) (s : State) : State :=
  if f.src = ownNumber s then s
  else
    match findContext f.src f.cls s with
    | none => s
    | some c => if c.seq = f.seq then abortContext .senderAbort c s else s

/-- RAS's session end (R134): every context is aborted with reason Removal. -/
def rasSessionEnd (s : State) : State := abortContexts .removal s.ras.contexts s

/-- The stale timeout (R122). -/
def staleTimeout : Time := us 50000

/-- A stale timer reaches 50 ms at `t` (R122): its context is aborted. Where the context is gone or its timer was
restarted less than 50 ms before `t`, the expiry finds nothing (R133, notes/assumptions/2.md). -/
def staleExpiry (t : Time) (src : Station) (cls : Class) (s : State) : State :=
  match findContext src cls s with
  | none => s
  | some c => if c.since + staleTimeout ≤ t then abortContext .stale c s else s

end Sys2Proof.Machine
end

