-- ==== Sys2Proof/Machine/Schedule.lean ====
section
/-! DEFINITION. SSU: the founding values, the commit and the membership updates, TABLE composition, judgment and load
(chapter 4). -/

namespace Sys2Proof.Machine

/-- The schedule state is replaced, and the own digest recomputed (R64, R65). -/
def withSched (d : Sched) (s : State) : State := { s with ssu := { s.ssu with sched := d, digest := d.digest } }

/-- A clear (R64): every item to its clear value, and no TABLE composed. -/
def clearSched (s : State) : State := { withSched Sched.empty s with ssu := { (withSched Sched.empty s).ssu with tableOut := none } }

/-- The founding values (R33). -/
def foundingSched (own : Station) : Sched :=
  { cycle := 0, pointer := own.val, rows := stations.map (fun s => ⟨s == own, 0, 0, 0, 0⟩) }

/-- The deficits of one row set to ALC's values, where the station is in E (R66, step 1). -/
def dealDeficits (as : List Account) (st : Station) (row : SchedRow) : SchedRow :=
  match as.find? (fun a => a.station == st) with
  | none => row
  | some a => { row with d1 := a.deficit.c1, d2 := a.deficit.c2, d3 := a.deficit.c3 }

/-- The membership update of one row by its record (R67 to R69). `member` is the start-of-cycle membership. -/
def updateRow (limit : Nat) (status : BidStatus) (member : Bool) (row : SchedRow) : SchedRow :=
  match status with
  | .unheard => row
  | .damaged => row
  | .silent =>
    if member then
      if limit ≤ row.silence + 1 then SchedRow.clear else { row with silence := row.silence + 1 }
    else row
  | .valid b =>
    match b.flag with
    | .none => if member then { row with silence := 0 } else row
    | .resync => if member then { row with silence := 0 } else row
    | .joining => ⟨true, 0, 0, 0, 0⟩
    | .leaving => if member then SchedRow.clear else row

/-- The record of a bid slot (R47). -/
def BidTable.record (t : BidTable) (k : Nat) : BidRecord := t.records.getD k BidRecord.clear

/-- The schedule state a commit forms (R66): ALC's deficits and pointer, the next cycle number, the membership
updates. -/
def committedSched (limit : Nat) (bids : BidTable) (as : List Account) (pointer : Nat) (d : Sched) : Sched :=
  { Sched.mapRows (fun st row =>
      updateRow limit (bids.record st.val).status (d.row st).member (dealDeficits as st row)) d with
    cycle := d.cycle + 1, pointer := pointer }

/-- The stations that were members before and are none after (R69, R73). -/
def removedStations (before after : Sched) : List Station :=
  stations.filter (fun st => (before.row st).member && !(after.row st).member)

/-- The TABLE a table source composes from the committed state (R70); LIF writes the remaining count. -/
def composeTable (s : State) : TableFrame :=
  ⟨ownNumber s, ownCheck s, s.ssu.sched.serialise, s.ssu.digest, 0⟩

/-- Condition 3 of R72: the bounds of R64 for the own profile. -/
def withinBounds (p : Profile) (d : Sched) : Bool :=
  decide (d.pointer ≤ 15) &&
    stations.all (fun st =>
      let r := d.row st
      if r.member then
        decide (st.val < p.lineSize) && decide (r.silence < p.limit) && decide (r.d1 ≤ 4 * p.quantum 1)
          && decide (r.d2 ≤ 4 * p.quantum 2) && decide (r.d3 ≤ 4 * p.quantum 3)
      else r.silence == 0 && r.d1 == 0 && r.d2 == 0 && r.d3 == 0)

/-- The judgment of a TABLE (R72): profile check, digest, bounds, and the source a member. -/
def tablePasses (p : Profile) (f : TableFrame) : Bool :=
  f.check == p.check && f.digest == crc16 f.body && withinBounds p (Sched.ofBytes f.body)
    && ((Sched.ofBytes f.body).row f.src).member

/-- A TABLE is loaded (R73): the state replaced, the removals signalled, TablesLoaded counted, the pending outcome
recorded (R35). -/
def loadTable (f : TableFrame) (s : State) : State :=
  let after := Sched.ofBytes f.body
  let removed := removedStations s.ssu.sched after
  let own := (after.row (ownNumber s)).member
  let s := { s with ssu := { s.ssu with sched := after, digest := f.digest } }
  let s := countEvent .tablesLoaded (removeSources removed s)
  { s with cyc := { s.cyc with pendingLoad := some (if own then .member else .notMember) } }

/-- The states in which SSU judges a TABLE (R71). -/
def StationState.loads : StationState → Bool
  | .joining => true
  | .blind => true
  | .outOfStep => true
  | .config => false
  | .listen => false
  | .starting => false
  | .inStep => false
  | .leaving => false
  | .stopped => false
  | .halted => false

/-- SSU takes a Valid TABLE (R71): ignored, loaded, or not loaded and counted in DamagedFrames (R72). -/
def takeTable (f : TableFrame) (s : State) : State :=
  if s.cyc.state.loads then
    if tablePasses s.mgt.profile f then loadTable f s else countEvent .damagedFrames s
  else s

end Sys2Proof.Machine
end

