-- ==== Sys2Proof/Machine/Transmit.lean ====
section
/-! DEFINITION. TXQ: admission, sequence numbers, demand snapshot, sending, FLUSH and the session end (chapter 6). -/

namespace Sys2Proof.Machine

/-- CONFIG, STOPPED and HALTED: the states in which the receiver is disabled and no message is taken (R12, R101). -/
def StationState.inactive : StationState → Bool
  | .config => true
  | .stopped => true
  | .halted => true
  | .listen => false
  | .starting => false
  | .joining => false
  | .inStep => false
  | .blind => false
  | .outOfStep => false
  | .leaving => false

/-! ### Admission -/

/-- The list with its last element changed. -/
def mapLast {α : Type} (f : α → α) : List α → List α
  | [] => []
  | [a] => [f a]
  | a :: b :: rest => a :: mapLast f (b :: rest)

/-- Check 3 of R101: a station destination is another station in use. Destination kind code 3 fails it (R176). -/
def destinationOk (s : State) : Destination → Bool
  | .station k => k != ownNumber s && decide (k.val < s.mgt.profile.lineSize)
  | .group _ => true
  | .all => true
  | .reserved _ => false

/-- The first check of R101 that fails, in their order. -/
def admissionCheck (h : FirstHead) (len : Nat) (s : State) : Option RefusalCause :=
  if s.cyc.state.inactive then some .notActive
  else if 16 ≤ (s.txq.queues.get h.cls).length then some .queueFull
  else if !destinationOk s h.dest then some .badDestination
  else if len < 1 || 1024 < len then some .malformed
  else if s.txq.free < segmentCount len then some .noRoom
  else none

/-- The descriptor of a message at its admission (R98, R102). -/
def newDescriptor (h : FirstHead) (tag : Byte) (len : Nat) : Descriptor :=
  ⟨h.cls, h.dest, tag, len, h.notify, segmentCount len, none, 0, List.replicate (segmentCount len) blankBuffer,
    .arriving⟩

/-- A header is taken (R100): the message is admitted with its buffers reserved (R102), or consumed without being
kept (R105). -/
def headerTaken (h : FirstHead) (tag : Byte) (len : Nat) (s : State) : State :=
  match admissionCheck h len s with
  | some cause => { s with txq := { s.txq with ingress := .discarding cause h.cls tag } }
  | none =>
    { s with txq := { s.txq with
        free := s.txq.free - segmentCount len,
        queues := s.txq.queues.set h.cls (s.txq.queues.get h.cls ++ [newDescriptor h tag len]),
        ingress := .admitted h.cls 0 } }

/-- Four bytes written at byte position `p` of a buffer list (R96, R102). -/
def writeWord (bufs : List (List Byte)) (p : Nat) (bytes : List Byte) : List (List Byte) :=
  bufs.set (p / 32)
    ((bufs.getD (p / 32) []).take (p % 32) ++ bytes ++ (bufs.getD (p / 32) []).drop (p % 32 + 4))

/-- A payload word is taken (R100, R102): written at the next four byte positions, or dropped. -/
def payloadTaken (w : Word) (s : State) : State :=
  match s.txq.ingress with
  | .none => s
  | .discarding _ _ _ => s
  | .admitted cls written =>
    { s with txq := { s.txq with
        queues := s.txq.queues.set cls
          (mapLast (fun d => { d with bufs := writeWord d.bufs written (wordBytes w) }) (s.txq.queues.get cls)),
        ingress := .admitted cls (written + 4) } }

/-- The three ways a message ends (R100). -/
inductive MessageEnd where
  | wellFormed
  | malformed
  | broken
  deriving DecidableEq, Repr

/-- The buffers of a whole message: the bytes beyond its end in the last buffer are zero (R96). -/
def zeroBeyond (len : Nat) (bufs : List (List Byte)) : List (List Byte) :=
  let used := len - 32 * (segmentCount len - 1)
  mapLast (fun b => b.take used ++ List.replicate (32 - used) 0) bufs

/-- A descriptor becomes Queued with the sequence `seq` (R103). -/
def queuedDescriptor (seq : Byte) (d : Descriptor) : Descriptor :=
  { d with seq := some seq, bufs := zeroBeyond d.len d.bufs, st := .queued }

/-- An Admitted message ends well-formed (R103): Queued with the class's sequence, whose counter advances. -/
def finishMessage (cls : Class) (s : State) : State :=
  { s with txq := { s.txq with
      queues := s.txq.queues.set cls (mapLast (queuedDescriptor (s.txq.seqs.get cls)) (s.txq.queues.get cls)),
      seqs := s.txq.seqs.set cls (s.txq.seqs.get cls + 1),
      ingress := .none } }

/-- An Admitted message ends Malformed or Broken (R104): its descriptor is removed and its buffers return. -/
def dropMessage (cause : RefusalCause) (cls : Class) (s : State) : State :=
  match (s.txq.queues.get cls).getLast? with
  | none => { s with txq := { s.txq with ingress := .none } }
  | some d =>
    raiseRefused cause cls d.tag
      { s with txq := { s.txq with
          free := s.txq.free + d.bufs.length,
          queues := s.txq.queues.set cls (s.txq.queues.get cls).dropLast,
          ingress := .none } }

/-- A message end is taken (R100, R103, R104, R105). -/
def messageEnd (e : MessageEnd) (s : State) : State :=
  match s.txq.ingress with
  | .none => s
  | .discarding cause cls tag =>
    raiseRefused cause cls tag { s with txq := { s.txq with ingress := .none } }
  | .admitted cls _ =>
    match e with
    | .wellFormed => finishMessage cls s
    | .malformed => dropMessage .malformed cls s
    | .broken => dropMessage .broken cls s

/-! ### Demand -/

/-- What a descriptor counts in its class's demand (R50, section 6.4). -/
def Descriptor.demand (d : Descriptor) : Nat :=
  match d.st with
  | .arriving => 0
  | .queued => d.segments - d.next
  | .sending => d.segments - d.next
  | .aborting => 1

/-- The demand snapshot of a class: the smaller of B and the count (R50). -/
def classDemand (budget : Nat) (q : List Descriptor) : Nat := min budget ((q.map Descriptor.demand).foldl (· + ·) 0)

/-- The demand snapshot, as the BID carries it (R50, 11.1). -/
def demandSnapshot (s : State) : Four Byte :=
  ⟨natByte (classDemand s.mgt.profile.budget s.txq.queues.c0), natByte (classDemand s.mgt.profile.budget s.txq.queues.c1),
    natByte (classDemand s.mgt.profile.budget s.txq.queues.c2), natByte (classDemand s.mgt.profile.budget s.txq.queues.c3)⟩

/-! ### Sending in granted slots -/

/-- The SEGMENT composed from a head descriptor and the buffer at the front of its buffer list (R108). -/
def segmentOf (src : Station) (d : Descriptor) (remain : Byte) : SegmentFrame where
  src := src
  cls := d.cls
  first := d.next == 0
  last := d.next + 1 == d.segments
  dest := d.dest
  seq := d.seq.getD 0
  tag := d.tag
  len := BitVec.ofNat 11 d.len
  index := BitVec.ofNat 5 d.next
  remain := remain
  payload := d.bufs.headD blankBuffer

/-- The frame TXQ answers a request of class `cls` with (R107, R108, R110, R111). -/
def frameFor (cls : Class) (remain : Byte) (s : State) : Frame :=
  match s.txq.queues.get cls with
  | [] => .empty ⟨ownNumber s, cls, remain⟩
  | d :: _ =>
    match d.st with
    | .arriving => .empty ⟨ownNumber s, cls, remain⟩
    | .aborting => .abort ⟨ownNumber s, cls, d.seq.getD 0, remain⟩
    | .queued => .segment (segmentOf (ownNumber s) d remain)
    | .sending => .segment (segmentOf (ownNumber s) d remain)

/-- The head's next segment has been handed over (R108, R109): its buffer is free again, and the head is Sending at
its next index, or it is retired, with a Sent notice where its notify flag is set. -/
def segmentSent (cls : Class) (d : Descriptor) (rest : List Descriptor) (s : State) : State :=
  if d.next + 1 = d.segments then
    let s := { s with txq := { s.txq with free := s.txq.free + d.bufs.length, queues := s.txq.queues.set cls rest } }
    if d.notify then takeNotice ⟨.sent, cls, d.seq, d.tag, none, false, 0⟩ s else s
  else
    { s with txq := { s.txq with
        free := s.txq.free + (d.bufs.length - d.bufs.tail.length),
        queues := s.txq.queues.set cls
          ({ d with next := d.next + 1, bufs := d.bufs.tail, st := .sending } :: rest) } }

/-- What answering a request of class `cls` does to TXQ (R108 to R111). -/
def frameSupplied (cls : Class) (s : State) : State :=
  match s.txq.queues.get cls with
  | [] => s
  | d :: rest =>
    match d.st with
    | .arriving => s
    | .aborting =>
      { s with txq := { s.txq with free := s.txq.free + d.bufs.length, queues := s.txq.queues.set cls rest } }
    | .queued => segmentSent cls d rest s
    | .sending => segmentSent cls d rest s

/-! ### FLUSH and session end -/

/-- The Flushed notice of a descriptor (R113). -/
def flushedNotice (d : Descriptor) (partly : Bool) : Notice := ⟨.flushed, d.cls, d.seq, d.tag, none, partly, 0⟩

/-- What one descriptor leaves in its queue under FLUSH (R114). -/
def Descriptor.flushed (d : Descriptor) : Option Descriptor :=
  match d.st with
  | .aborting => some d
  | .sending => some { d with bufs := [], st := .aborting }
  | .queued => none
  | .arriving => some d

/-- The buffers one descriptor frees under FLUSH (R114). -/
def Descriptor.flushFrees (d : Descriptor) : Nat :=
  match d.st with
  | .aborting => 0
  | .sending => d.bufs.length
  | .queued => d.bufs.length
  | .arriving => 0

/-- The notice one descriptor gets under FLUSH (R114) and at a session end (R116). -/
def Descriptor.flushNotice (d : Descriptor) : Option Notice :=
  match d.st with
  | .aborting => none
  | .sending => some (flushedNotice d true)
  | .queued => some (flushedNotice d false)
  | .arriving => none

/-- FLUSH of class `cls` (R114): head to tail, the notices in queue order. -/
def flushQueue (cls : Class) (s : State) : State :=
  let q := s.txq.queues.get cls
  takeNotices (q.filterMap Descriptor.flushNotice)
    { s with txq := { s.txq with
        free := s.txq.free + (q.map Descriptor.flushFrees).sum,
        queues := s.txq.queues.set cls (q.filterMap Descriptor.flushed) } }

/-- The session end of TXQ in one class (R116): every descriptor is removed, its buffers are freed, and an Arriving
message turns to Discarding with cause NotActive. -/
def endQueue (cls : Class) (s : State) : State :=
  let q := s.txq.queues.get cls
  takeNotices (q.filterMap Descriptor.flushNotice)
    { s with txq := { s.txq with
        free := s.txq.free + (q.map (fun d => d.bufs.length)).sum,
        queues := s.txq.queues.set cls [],
        ingress :=
          match q.find? (fun d => d.st == .arriving) with
          | some d => .discarding .notActive cls d.tag
          | none => s.txq.ingress } }

/-- TXQ's session end (R116): class queues 0, 1, 2 and 3 in that order. -/
def txqSessionEnd (s : State) : State := endQueue 3 (endQueue 2 (endQueue 1 (endQueue 0 s)))

end Sys2Proof.Machine
end

