-- ==== Sys2Proof/Machine/Ops.lean ====
section
/-! DEFINITION. The shared operations of station life: state changes, timers, the session end, and the entries into
LISTEN, STOPPED and HALTED (chapter 2), with the transmitter they cut short or let finish (R22, R23). -/

namespace Sys2Proof.Machine

/-! ### Times -/

/-- The length of the gap (R5). -/
def gapTime : Time := us 10

/-- The length of a bid slot (R5). -/
def bidSlotTime : Time := us 6

/-- The length of a data slot (R5). -/
def dataSlotTime : Time := us 16

/-- The half microsecond by which spans lie before the nominal times, and the half-width of a window (R8). -/
def halfWindow : Time := 500

/-- The listen timeout (R20). -/
def listenTimeout : Time := us 5000

/-- The line-lost timeout (R21). -/
def lineLostTimeout : Time := us 5000

/-- The cold-start delay of a station (R32). -/
def coldStartDelay (own : Station) : Time := us (250 * own.val)

/-- `n` slots of length `slot`. -/
def slotsTime (slot : Time) (n : Nat) : Time := slot * (n : Int)

/-- A timer running since some moment has run for `limit` at `t`. -/
def Timer.reached (timer : Timer) (limit t : Time) : Bool :=
  match timer with
  | .stopped => false
  | .running since => decide (since + limit ≤ t)

/-! ### Station state -/

/-- The station state changes, and STATE is set where it does (R24). -/
def enterState (st : StationState) (s : State) : State :=
  if s.cyc.state = st then s else raiseEvent .state { s with cyc := { s.cyc with state := st } }

/-- ALC drops the grant list, and SSU the TABLE composed with it (R70, R77, R78). -/
def dropGrants (s : State) : State :=
  { s with alc := ⟨none⟩, ssu := { s.ssu with tableOut := none } }

/-- The timing lock is cleared, the position becomes NONE with every moment undefined and the layout unknown, and the
line-lost timer is stopped (R14, R21, R33). -/
def loseTiming (s : State) : State :=
  { s with cyc := { s.cyc with timingLock := false, position := .none, boundaryDue := false, cycleStart := none,
                               annStart := none, dataStart := none, dataEnd := none, unslottedUntil := none,
                               fixedAt := none, layout := .unknown, lineLost := .stopped } }

/-- An echo whose reception is over and will be judged in no slot any more is forgotten: no frame is in transmission
and no carrier is present (notes/assumptions/25.md). -/
def forgetEcho (s : State) : State :=
  if s.lif.tx.isSome || s.pins.cd then s else { s with lif := { s.lif with echo := none, startEcho := none } }

/-- A START is in transmission. -/
def Lif.sendsStart (l : Lif) : Bool :=
  match l.tx with
  | some (.start _ _) => true
  | _ => false

/-- The receiver at the entry into STOPPED or HALTED (R12, R22): off, or finishing the echo of the frame in
transmission. The result of a START's echo changes no state any more (R43). -/
def stopReceiver (s : State) : State :=
  if s.lif.tx.isSome then
    { s with lif := { s.lif with
        receiver := .finishing, echo := if s.lif.sendsStart then s.lif.startEcho else s.lif.echo,
        startEcho := none } }
  else
    { s with lif := { s.lif with
        receiver := .off, receiverSince := none, echo := none, startEcho := none, carriers := [] } }

/-- TXQ and RAS take their session ends (R45, R116, R134). Their order is a free value where both have something to
report (notes/assumptions/9.md). -/
def endQueues (s : State) : State :=
  if s.ras.contexts.isEmpty then txqSessionEnd s
  else if Config.txqEndsFirst s.freeIx then rasSessionEnd (txqSessionEnd { s with freeIx := s.freeIx + 1 })
  else txqSessionEnd (rasSessionEnd { s with freeIx := s.freeIx + 1 })

/-- CYC's own part of a session end (R14, R28, R45, R47, R61): lock, position and timers cleared, counts and marks
cleared, the bid table and the announcement outcome cleared. -/
def endCyc (c : Cyc) : Cyc :=
  { c with leavePending := false, joinCycle := 0, outOfStep := 0, echoFault := 0, coldStart := .stopped,
           pendingLoad := none, listenTimer := .stopped, bids := BidTable.clear, outcome := none,
           eligibleLast := false }

/-- The station ends its session (R45). -/
def endSession (s : State) : State :=
  let s := clearSched (dropGrants (endQueues s))
  stopReceiver (loseTiming { s with cyc := endCyc s.cyc })

/-- Entry into STOPPED (R45). -/
def enterStopped (s : State) : State := endSession (enterState .stopped s)

/-- Entry into HALTED with a cause (R46): a later condition changes nothing. -/
def enterHalted (cause : HaltCause) (s : State) : State :=
  if s.cyc.state = .halted then s
  else
    let s := raiseEvent .halt (enterState .halted s)
    endSession { s with cyc := { s.cyc with haltCause := cause } }

/-- The listen timer from zero at `t`: held while CD is asserted (R20, R28). -/
def startListening (cd : Bool) (t : Time) : ListenTimer := if cd then .held else .running t

/-- The receiver is enabled (R28); the moment is kept where the receiver has been on all along (R15). -/
def enableReceiver (t : Time) (l : Lif) : Lif :=
  match l.receiver with
  | .on => l
  | .off => { l with receiver := .on, receiverSince := some t }
  | .finishing => { l with receiver := .on }

/-- The entry effects of LISTEN on CYC (R20, R28, R32, R61). -/
def listenCyc (cd : Bool) (t : Time) (c : Cyc) : Cyc :=
  { c with listenTimer := startListening cd t, profileChecked := false, joinCycle := 0, outOfStep := 0, echoFault := 0,
           pendingLoad := none, coldStart := .stopped, outcome := none, eligibleLast := false }

/-- Entry into LISTEN at `t` (R28): from CONFIG or STOPPED nothing of the schedule is held; from a running state the
schedule state and the grant list are cleared. With leave-pending set, STOPPED is entered instead. -/
def enterListen (t : Time) (s : State) : State :=
  if s.cyc.leavePending then enterStopped s
  else
    let s := clearSched (dropGrants (enterState .listen s))
    { s with cyc := listenCyc s.pins.cd t s.cyc, lif := enableReceiver t s.lif }

/-- Entry into IN_STEP: the join-attempt count is 0 (R34). -/
def enterInStep (s : State) : State :=
  let s := enterState .inStep s
  { s with cyc := { s.cyc with joinAttempt := 0 } }

/-- Step loss (R41, R42): LISTEN, or STOPPED with leave-pending; STEPLOSS is raised and StepLosses counted. -/
def stepLoss (t : Time) (s : State) : State :=
  enterListen t (countEvent .stepLosses (raiseEvent .stepLoss s))

/-! ### Transmission -/

/-- LIF begins to transmit a frame for a slot and keeps a copy for the echo comparison (R11, R22). -/
def transmit (f : Frame) (s : State) : State :=
  { s with lif := { s.lif with tx := some f, echo := some ⟨f, s.pins.cd, none⟩ } }

/-- LIF begins to transmit a START, outside any cycle, and keeps a copy for the echo comparison (R11, R22, R33). -/
def transmitStart (f : Frame) (s : State) : State :=
  { s with lif := { s.lif with tx := some f, startEcho := some ⟨f, s.pins.cd, none⟩ } }

/-- LIF takes a frame for a slot: none is in transmission, and the echo of the one before has been judged
(R11, R22). -/
def lineFree (s : State) : Bool := s.lif.tx.isNone && s.lif.echo.isNone

/-- TXEN (R1). -/
def txenPin (s : State) : Bool := s.lif.tx.isSome

/-- IREADY (R154). -/
def ireadyPin (s : State) : Bool := !s.pins.resetPin && !s.cleaning

/-- A Valid frame has been judged: the timing lock is set and the line-lost timer restarted at its frame end
(R15, R16, R17, R21). -/
def restartLineLost (frameEnd : Time) (s : State) : State :=
  { s with cyc := { s.cyc with timingLock := true, lineLost := .running frameEnd } }

end Sys2Proof.Machine
end

