-- ==== Sys2Proof/Machine/Agreement.lean ====
section
/-! DEFINITION. Announcements: bid composition, the bid table, the decisions at the end of the announcement phase, the
commit, and the data-phase end (chapter 3, R18, R31, R36, R40). -/

namespace Sys2Proof.Machine

/-! ### The bid table -/

/-- A record is entered (R47): the damage mark is set where it is Damaged. -/
def BidTable.enter (k : Nat) (r : BidRecord) (t : BidTable) : BidTable :=
  ⟨t.records.set k r, t.damage || r.status == .damaged⟩

/-- More than one of the three flags (R48). -/
def flagClash (f : BidFrame) : Bool :=
  (f.leaving && f.resync) || (f.leaving && f.joining) || (f.resync && f.joining)

/-- The flag of a bid that carries at most one (R47). -/
def bidFlag (f : BidFrame) : BidFlag :=
  if f.joining then .joining else if f.resync then .resync else if f.leaving then .leaving else .none

/-- The demands of a bid (R48): all 0 where it carries a flag. -/
def bidDemand (f : BidFrame) : Four Nat :=
  match bidFlag f with
  | .none => ⟨f.demand.c0.toNat, f.demand.c1.toNat, f.demand.c2.toNat, f.demand.c3.toNat⟩
  | .joining => Four.all 0
  | .resync => Four.all 0
  | .leaving => Four.all 0

/-- The three matters CYC judges of a Valid bid (R48): flags, profile check, demands. -/
def bidAccepted (p : Profile) (f : BidFrame) : Bool :=
  !flagClash f && f.check == p.check
    && decide (f.demand.c0.toNat ≤ p.budget) && decide (f.demand.c1.toNat ≤ p.budget)
    && decide (f.demand.c2.toNat ≤ p.budget) && decide (f.demand.c3.toNat ≤ p.budget)

/-- The status a Valid report of a BID is entered with (R48). -/
def bidStatus (p : Profile) (f : BidFrame) : BidStatus :=
  if bidAccepted p f then .valid ⟨f.station, f.cycle, bidFlag f, f.digest, bidDemand f⟩ else .damaged

/-- A record is entered into the bid table. -/
def enterRecord (k : Nat) (r : BidRecord) (s : State) : State :=
  { s with cyc := { s.cyc with bids := s.cyc.bids.enter k r } }

/-- A Valid BID is entered into record `k` (R48): one entered as Damaged is counted in DamagedFrames. -/
def enterBid (k : Nat) (own : Bool) (f : BidFrame) (s : State) : State :=
  let r : BidRecord := ⟨bidStatus s.mgt.profile f, own, if own then some true else none, false⟩
  if bidAccepted s.mgt.profile f then enterRecord k r s else countEvent .damagedFrames (enterRecord k r s)

/-- An IN_STEP station that has seen a Damaged bid slot becomes BLIND, counted in BlindCycles (R37). -/
def goBlind (s : State) : State :=
  if s.cyc.state = .inStep && s.cyc.bids.damage then countEvent .blindCycles (enterState .blind s) else s

/-! ### The own bid -/

/-- The states that bid (R26, R49). -/
def StationState.bids : StationState → Bool
  | .joining => true
  | .inStep => true
  | .blind => true
  | .outOfStep => true
  | .config => false
  | .listen => false
  | .starting => false
  | .leaving => false
  | .stopped => false
  | .halted => false

/-- The own bid, composed from the station state and leave-pending (R49). -/
def ownBidFrame (s : State) : BidFrame where
  station := ownNumber s
  cycle := if s.cyc.state = .joining then 0 else s.ssu.sched.cycle
  leaving := s.cyc.leavePending
  resync := !s.cyc.leavePending && (s.cyc.state == .blind || s.cyc.state == .outOfStep)
  joining := !s.cyc.leavePending && s.cyc.state == .joining
  check := ownCheck s
  digest := if s.cyc.state = .joining then 0 else s.ssu.digest
  demand := if s.cyc.state = .inStep && !s.cyc.leavePending then demandSnapshot s else Four.all 0

/-- The position has placed the announcement start before the window of bid slot `k` opens (R19): an unslotted frame that
fixed the position ended before then (notes/assumptions/6.md). -/
def placedBefore (k : Nat) (c : Cyc) : Bool :=
  match c.annStart with
  | none => false
  | some a => c.fixedAt.all (fun t => decide (t < a + slotsTime bidSlotTime k - halfWindow))

/-- R19 lets the station place its bid: the lock is set, the position stands at the own slot and was fixed before the
slot's window opened, and the slot is not the one of a BID that fixed the position, whose record is entered. -/
def bidPlaceable (s : State) : Bool :=
  s.cyc.timingLock && s.cyc.position == .announce (ownNumber s).val
    && (s.cyc.bids.record (ownNumber s).val).status == .unheard && placedBefore (ownNumber s).val s.cyc

/-! ### The decisions (R54 to R59) -/

/-- The Valid bids of a table with their slots, in slot order. -/
def validBids (t : BidTable) : List ValidBid :=
  stations.filterMap (fun st =>
    match (t.record st.val).status with
    | .valid b => some b
    | .unheard => none
    | .silent => none
    | .damaged => none)

/-- The candidate bids (R55), in increasing station order. -/
def candidates (t : BidTable) (d : Sched) : List ValidBid :=
  (validBids t).filter (fun b => (d.row b.station).member && b.flag != .joining)

/-- The size of the group of a digest (R56). -/
def groupSize (cs : List ValidBid) (digest : Half) : Nat := (cs.filter (fun b => b.digest == digest)).length

/-- The first of the bids whose group is largest (R56): among tied groups, the one with the lowest candidate. -/
def largestGroup (all : List ValidBid) : List ValidBid → Option Half
  | [] => none
  | b :: rest =>
    match largestGroup all rest with
    | none => some b.digest
    | some h => if groupSize all h ≤ groupSize all b.digest then some b.digest else some h

/-- The reference digest (R56). -/
def referenceDigest (cs : List ValidBid) : Option Half := largestGroup cs cs

/-- The eligible bids (R57): the reference's digest, and the cycle number of the lowest candidate that carries it. -/
def eligibleBids (cs : List ValidBid) : List ValidBid :=
  match referenceDigest cs with
  | none => []
  | some ref =>
    match cs.find? (fun b => b.digest == ref) with
    | none => []
    | some lead => cs.filter (fun b => b.digest == ref && b.cycle == lead.cycle)

/-- The table source (R58). -/
def tableSource (eligible : List ValidBid) : Option Station :=
  (eligible.find? (fun b => b.flag == .none)).map ValidBid.station

/-- A Joining or Resync bid is present, from any station (R59). -/
def tableWanted (t : BidTable) : Bool := (validBids t).any (fun b => b.flag == .joining || b.flag == .resync)

/-- The announcement outcome of the five decisions (R55 to R59), before a commit. -/
def announcement (own : Station) (t : BidTable) (d : Sched) : Announcement :=
  let cs := candidates t d
  let es := eligibleBids cs
  { reference := referenceDigest cs, eligible := es.map ValidBid.station, source := tableSource es,
    placed := tableWanted t && (tableSource es).isSome, ownEligible := (es.map ValidBid.station).contains own,
    committed := false }

/-- The first `n` records are all entered, none of them as Damaged under R15. -/
def allClassified (t : BidTable) (n : Nat) : Bool :=
  (t.records.take n).all (fun r => r.status != .unheard && !(r.entered15 && r.status == .damaged))

/-- R54: the station takes the end-of-announcement decisions. -/
def decides (s : State) : Bool :=
  (s.cyc.state == .inStep || s.cyc.state == .outOfStep) && !s.cyc.bids.damage
    && allClassified s.cyc.bids s.mgt.profile.lineSize

/-! ### The commit -/

/-- The accounts ALC works on (R79), in rotation order (R81). -/
def openAccounts (o : Announcement) (t : BidTable) (d : Sched) : List Account :=
  (rotationOrder o.eligible d.pointer).filterMap (fun st =>
    match (t.record st.val).status with
    | .valid b => some (openAccount st b.demand (d.row st))
    | .unheard => none
    | .silent => none
    | .damaged => none)

/-- The commit of an outcome (R60, R66, R69, R70, R79, R90): ALC's grant list, SSU's new state, the removal signals,
and the TABLE where the station is the table source. -/
def commit (o : Announcement) (s : State) : State :=
  let p := s.mgt.profile
  let before := s.ssu.sched
  let accounts := settleAccounts p o.placed (openAccounts o s.cyc.bids before)
  let after := committedSched p.limit s.cyc.bids accounts (nextPointer (rotationOrder o.eligible before.pointer) before.pointer)
    before
  let s := withSched after { s with alc := ⟨some (grantListOf o.placed accounts)⟩ }
  let s := if o.placed && o.source == some (ownNumber s) then
      { s with ssu := { s.ssu with tableOut := some (composeTable s) } }
    else s
  removeSources (removedStations before after) s

/-- The verdict of R60: commit and IN_STEP, or no commit and OUT_OF_STEP (R36, R40). -/
def verdict (o : Announcement) (s : State) : State :=
  if o.ownEligible then
    let s := commit o { s with cyc := { s.cyc with outcome := some { o with committed := true } } }
    if s.cyc.state = .outOfStep then
      let s := enterInStep s
      { s with cyc := { s.cyc with outOfStep := 0 } }
    else s
  else
    let s := { s with cyc := { s.cyc with outcome := some o } }
    if s.cyc.state = .inStep then
      let s := enterState .outOfStep s
      { s with cyc := { s.cyc with outOfStep := 0 } }
    else s

/-! ### The data-phase end (R18) -/

/-- No grant is possible in this cycle (R18): no damage, and no Valid bid with a demand or the Joining or Resync
flag. -/
def noGrantPossible (t : BidTable) : Bool :=
  !t.damage && (validBids t).all (fun b =>
    b.demand.c0 == 0 && b.demand.c1 == 0 && b.demand.c2 == 0 && b.demand.c3 == 0
      && b.flag != .joining && b.flag != .resync)

/-- The position passes at once to GAP of the next cycle, which starts at `t` (R18); its boundary is still to come. -/
def gapAt (t : Time) (layout : Layout) (s : State) : State :=
  { s with cyc := { s.cyc with position := .gap, boundaryDue := true, cycleStart := some t,
                               annStart := some (t + gapTime), dataStart := none, dataEnd := none, layout := layout } }

/-- The layout of a placement decision (R14). -/
def layoutOf (placed : Bool) : Layout := if placed then .placed else .notPlaced

/-- The data-phase end is fixed or opened at the end of the announcement phase, with the data phase starting at `t`
(R18). -/
def fixDataPhase (t : Time) (s : State) : State :=
  match s.alc.grants, s.cyc.outcome with
  | some g, _ =>
    if g.total = 0 then gapAt t (layoutOf g.placed) s
    else
      { s with cyc := { s.cyc with position := .dataFixed (some 0), dataStart := some t,
                                   dataEnd := some (t + slotsTime dataSlotTime g.total), layout := layoutOf g.placed } }
  | none, outcome =>
    if noGrantPossible s.cyc.bids then gapAt t .notPlaced s
    else
      { s with cyc := { s.cyc with position := .dataOpen 0, dataStart := some t, dataEnd := none,
                                   layout := match outcome with
                                     | some o => layoutOf o.placed
                                     | none => .unknown } }

/-- A LISTEN station may enter JOINING (R31). -/
def mayJoin (s : State) : Bool :=
  s.cyc.timingLock && allClassified s.cyc.bids s.mgt.profile.lineSize
    && (s.cyc.bids.record (ownNumber s).val).status == .silent && s.cyc.profileChecked

/-- LISTEN to JOINING (R31). -/
def enterJoining (s : State) : State :=
  let s := enterState .joining s
  { s with cyc := { s.cyc with listenTimer := .stopped, joinCycle := 0 } }

/-- The end of the announcement phase, with the data phase starting at `t` (R18, R31, R54, R60). -/
def endAnnouncement (t : Time) (s : State) : State :=
  let s :=
    if s.cyc.state = .listen then (if mayJoin s then enterJoining s else s)
    else if decides s then verdict (announcement (ownNumber s) s.cyc.bids s.ssu.sched) s
    else s
  fixDataPhase t s

end Sys2Proof.Machine
end

