-- ==== Sys2Proof/Machine/Line.lean ====
section
/-! DEFINITION. The line as it happens: classification of slots (R8, R9, R11), the cycle boundary (R25), slot reports
(R10), unslotted receptions (R12), and the timing they give (R15 to R17). -/

namespace Sys2Proof.Machine

/-! ### Classification -/

/-- The class of a slot (R9); a Valid slot comes with its frame and reception. -/
inductive SlotClass where
  | silent
  | damaged
  | valid (f : Frame) (r : Reception)
  deriving DecidableEq, Repr

/-- A reception of a slot starts in its window and ends before its span does (R8). `nominal` is the slot's nominal
start (notes/assumptions/6.md). -/
def inTime (nominal spanEnd : Time) (r : Reception) : Bool :=
  decide (nominal - halfWindow ≤ r.start) && decide (r.start ≤ nominal + halfWindow) && decide (r.stop < spanEnd)

/-- The echo comparison (R11): a slot without an own frame passes it. -/
def echoAgrees (own : Option Frame) (f : Frame) : Bool :=
  match own with
  | none => true
  | some copy => f == copy

/-- The classification of a slot at the end of its span (R9, R11). `own` is the frame the station transmitted in the
slot. -/
def classifySlot (p : Profile) (part : CyclePart) (nominal spanEnd : Time) (own : Option Frame) (line : SpanLine) :
    SlotClass :=
  if own.isNone && !line.carrierAtStart && line.carrierAtEnd.isNone && line.heard.isEmpty then .silent
  else if line.carrierAtStart || line.carrierAtEnd.isSome then .damaged
  else
    match line.heard with
    | [] => .damaged
    | [r] =>
      match judgeBits p part r.bits with
      | none => .damaged
      | some f => if inTime nominal spanEnd r && echoAgrees own f then .valid f r else .damaged
    | _ :: _ :: _ => .damaged

/-- Any carrier during a gap span is a gap disturbance (R10). -/
def gapDisturbed (line : SpanLine) : Bool :=
  line.carrierAtStart || line.carrierAtEnd.isSome || !line.heard.isEmpty

/-- The own frame whose echo the present slot carries (R11); a START that founds a line has a copy of its own. -/
def ownSlotFrame (s : State) : Option Frame := s.lif.echo.map EchoWatch.frame

/-- The echo of the slot has been judged, and its copy is discarded (R11). -/
def dropSlotEcho (s : State) : State := { s with lif := { s.lif with echo := none } }

/-- The echo result of an own frame in its slot (R11): passed where some reception of the span is a Valid frame (R2,
with the times of R8) equal to the copy. The classification of the slot does not enter: a second reception, or carrier
at the start of the span, makes the slot Damaged (R9) beside an echo that passes (notes/assumptions/33.md). -/
def echoPassed (p : Profile) (part : CyclePart) (nominal spanEnd : Time) (own : Option Frame) (line : SpanLine) :
    Bool :=
  own.isSome && line.heard.any (fun r => inTime nominal spanEnd r && judgeBits p part r.bits == own)

/-! ### Cycle boundaries (R25) -/

/-- The boundary step of the state held at the boundary, at `t`, after a pending load outcome is settled
(R34, R35, R38, R41, R44). -/
def boundaryStep (t : Time) (s : State) : State :=
  match s.cyc.state, s.cyc.pendingLoad with
  | .joining, some .member => settleMember s
  | .blind, some .member => settleMember s
  | .outOfStep, some .member => settleMember s
  | .blind, some .notMember => settleNotMember s
  | .outOfStep, some .notMember => settleNotMember s
  | .joining, some .notMember => joinCycleEnds t { s with cyc := { s.cyc with pendingLoad := none } }
  | .joining, none => joinCycleEnds t s
  | .blind, none =>
    let s := enterState .outOfStep s
    { s with cyc := { s.cyc with outOfStep := 0 } }
  | .outOfStep, none =>
    let s := { s with cyc := { s.cyc with outOfStep := s.cyc.outOfStep + 1 } }
    if 16 ≤ s.cyc.outOfStep then stepLoss t s else s
  | .leaving, _ => enterStopped s
  | .config, _ => s
  | .listen, _ => s
  | .starting, _ => s
  | .inStep, _ => s
  | .stopped, _ => s
  | .halted, _ => s
where
  /-- A load outcome of member (R35). -/
  settleMember (s : State) : State :=
    let s := enterInStep s
    { s with cyc := { s.cyc with pendingLoad := none, joinCycle := 0, outOfStep := 0 } }
  /-- A load outcome of not member, from BLIND or OUT_OF_STEP (R35). -/
  settleNotMember (s : State) : State :=
    let s := enterState .joining s
    { s with cyc := { s.cyc with pendingLoad := none, joinCycle := 0 } }
  /-- A boundary in JOINING that does not settle as member (R34). -/
  joinCycleEnds (t : Time) (s : State) : State :=
    let s := { s with cyc := { s.cyc with joinCycle := s.cyc.joinCycle + 1 } }
    if 8 ≤ s.cyc.joinCycle then
      let s := { s with cyc := { s.cyc with joinAttempt := s.cyc.joinAttempt + 1 } }
      if 4 ≤ s.cyc.joinAttempt then enterHalted .joinFailed s else enterListen t s
    else s

/-- The outcome shows own eligibility and a commit (R61). -/
def eligibleAndCommitted (o : Option Announcement) : Bool :=
  match o with
  | none => false
  | some o => o.ownEligible && o.committed

/-- What a cycle boundary does whatever the station state: eligible-last-cycle is settled (R61), and the grant list
(R78), the outcome and the bid table (R47) are cleared. -/
def clearCycle (s : State) : State :=
  let s := dropGrants s
  { s with cyc := { s.cyc with eligibleLast := eligibleAndCommitted s.cyc.outcome, outcome := none,
                               bids := BidTable.clear, boundaryDue := false, layout := .unknown } }

/-- A cycle boundary at `t` (R25): what every boundary clears comes before the pending load outcome and the state's own
step. -/
def takeBoundary (t : Time) (s : State) : State := boundaryStep t (clearCycle s)

/-- A data slot is still to come before the fixed end of the data phase. -/
def slotBeforeEnd (i : Nat) (c : Cyc) : Bool :=
  match c.dataStart, c.dataEnd with
  | some d, some e => decide (d + slotsTime dataSlotTime i < e)
  | _, _ => false

/-- The start of the next gap span, where the present position leads to one: the gap that R17 or R18 has set, or the
end of a data phase whose end is fixed and whose slots have passed (R14, R25). -/
def nextGap (c : Cyc) : Option Time :=
  match c.position with
  | .gap => if c.boundaryDue then c.cycleStart else none
  | .dataFixed none => c.dataEnd
  | .dataFixed (some i) => if slotBeforeEnd i c then none else c.dataEnd
  | .none => none
  | .announce _ => none
  | .dataOpen _ => none

/-- The gap span begins (R25): GAP of the cycle that starts at `start`, half a microsecond later (R8). -/
def beginGap (start : Time) (s : State) : State :=
  takeBoundary (start - halfWindow)
    { s with cyc := { s.cyc with position := .gap, cycleStart := some start, annStart := some (start + gapTime),
                                 dataStart := none, dataEnd := none } }

/-! ### Receptions that are BIDs or STARTs, for the station state -/

/-- The first Valid BID or START in LISTEN is compared with the own profile check (R29). -/
def compareProfile (check : Byte) (s : State) : State :=
  if s.cyc.state = .listen && !s.cyc.profileChecked then
    if check = ownCheck s then { s with cyc := { s.cyc with profileChecked := true } }
    else enterHalted .profileMismatch s
  else s

/-- The states in which the own number heard from another station halts the station (R30). -/
def StationState.hearsDuplicates : StationState → Bool
  | .listen => true
  | .joining => true
  | .inStep => true
  | .blind => true
  | .outOfStep => true
  | .leaving => true
  | .config => false
  | .starting => false
  | .stopped => false
  | .halted => false

/-- R30 halts the station for a Valid BID or START of `station`; `own` says that it is the echo of the station's own
frame. -/
def isDuplicate (station : Station) (own : Bool) (s : State) : Bool :=
  station == ownNumber s && !own && s.cyc.state.hearsDuplicates

/-- A Valid BID or START with the own number that the station did not transmit (R30). -/
def checkDuplicate (station : Station) (own : Bool) (s : State) : State :=
  if isDuplicate station own s then enterHalted .duplicateNumber s else s

/-- The echo result of an own BID, in a state that bids (R39). -/
def countEcho (passed : Bool) (s : State) : State :=
  if s.cyc.state.bids then
    if passed then { s with cyc := { s.cyc with echoFault := 0 } }
    else
      let s := { s with cyc := { s.cyc with echoFault := s.cyc.echoFault + 1 } }
      if 3 ≤ s.cyc.echoFault then enterHalted .echoFault s else s
  else s

/-- The own frame is a Leaving bid (R44). -/
def isLeavingBid : Option Frame → Bool
  | some (.bid f) => f.leaving
  | _ => false

/-- At the end of the slot of its Leaving bid, the station enters LEAVING (R44). -/
def leaveAfterBid (own : Option Frame) (s : State) : State :=
  if isLeavingBid own && s.cyc.state.bids then enterState .leaving s else s

/-! ### Slot reports -/

/-- The report of a gap span (R10, R13): a gap disturbance is counted, and the announcement phase follows. -/
def gapReport (line : SpanLine) (s : State) : State :=
  let s := { s with cyc := { s.cyc with position := .announce 0 } }
  if gapDisturbed line then countEvent .damagedFrames s else s

/-- The end of bid slot `k`'s span, once its record is entered: the next slot, or the end of the announcement phase,
where the data phase starts at `dataAt` (R14, R18). -/
def endBidSlot (k : Nat) (dataAt : Time) (s : State) : State :=
  if s.cyc.state.inactive then s
  else if k + 1 < s.mgt.profile.lineSize then { s with cyc := { s.cyc with position := .announce (k + 1) } }
  else endAnnouncement dataAt s

/-- A Valid BID heard in its slot refreshes the cycle from its frame start (R15). -/
def refreshCycle (k : Nat) (r : Reception) (s : State) : State :=
  let a := r.start - slotsTime bidSlotTime k
  restartLineLost r.stop { s with cyc := { s.cyc with annStart := some a, cycleStart := some (a - gapTime) } }

/-- The report of bid slot `k` is entered (R48) and acted on, in the order of 95_what_each_step_holds (SLOT_REPORT):
table entry, blindness (R37), echo fault (R39), profile (R29) and number (R30), leaving (R44). `passed` is the echo
result of an own frame (R11), which has passed where the slot is Valid. -/
def enterBidReport (k : Nat) (own : Option Frame) (passed : Bool) (c : SlotClass) (s : State) : State :=
  match c with
  | .silent => enterRecord k ⟨.silent, false, none, false⟩ s
  | .valid (.bid f) r =>
    let s := enterBid k own.isSome f (refreshCycle k r s)
    let s := goBlind s
    let s := if own.isSome then countEcho true s else s
    leaveAfterBid own (checkDuplicate f.station own.isSome (compareProfile f.check s))
  | _ =>
    let s := countEvent .damagedFrames
      (enterRecord k ⟨.damaged, own.isSome, if own.isSome then some passed else none, false⟩ s)
    let s := if isLeavingBid own then s else goBlind s
    leaveAfterBid own (if own.isSome then countEcho passed s else s)

/-- The end of bid slot `k`'s span, the announcement phase starting at `a` (R9, R10). A slot whose record R15 has
already entered keeps it (R47). DESIGN CHOICE (notes/assumptions/29.md): a further carrier in the rest of the span of
the slot whose unslotted BID fixed the position is neither judged nor counted; R8 and R13 would have such a slot Damaged
and counted, and R15 has it reported Valid already. -/
def bidSlotReport (k : Nat) (a : Time) (line : SpanLine) (s : State) : State :=
  let own := ownSlotFrame s
  let nominal := a + slotsTime bidSlotTime k
  let spanEnd := nominal + bidSlotTime - halfWindow
  let c := classifySlot s.mgt.profile (.bidSlot k) nominal spanEnd own line
  let passed := echoPassed s.mgt.profile (.bidSlot k) nominal spanEnd own line
  let s := dropSlotEcho s
  let s := if (s.cyc.bids.record k).status = .unheard then enterBidReport k own passed c s else s
  endBidSlot k ((s.cyc.annStart.getD a) + slotsTime bidSlotTime s.mgt.profile.lineSize) s

/-- A Valid data-phase frame is handed on at `t`: a SEGMENT or ABORT to RAS, a TABLE to SSU (R10, R12). -/
def handDataFrame (t : Time) (f : Frame) (s : State) : State :=
  match f with
  | .segment g => takeSegment t g s
  | .abort g => takeAbort g s
  | .table g => takeTable g s
  | .empty _ => s
  | .start _ _ => s
  | .bid _ => s

/-- The fixed end of the data phase a Valid frame gives (R16): its slot end and `remain` slots more. -/
def endFromFrame (f : Frame) (r : Reception) : Option Time :=
  match f.remaining with
  | none => none
  | some n => some (r.start + f.slotLength + slotsTime dataSlotTime n)

/-- A Valid data-phase frame heard in data slot `i` fixes the end and moves the grid (R16); slot `next` follows. -/
def fixEndSlotted (i next : Nat) (f : Frame) (r : Reception) (s : State) : State :=
  restartLineLost r.stop
    { s with cyc := { s.cyc with position := .dataFixed (some next), dataEnd := endFromFrame f r,
                                 dataStart := some (r.start - slotsTime dataSlotTime i) } }

/-- A reception that starts at `start`, in the window of the data slot 0 with the nominal start given, and carries
TABLE's kind code (R7, R8). -/
def tableInWindow (nominal start : Time) (bits : List Bool) : Bool :=
  decide (nominal - halfWindow ≤ start) && decide (start ≤ nominal + halfWindow) && tableCodeRead bits

/-- The report of a span is judged over the table block (R7): the layout is placed, or it is unknown and a reception
that starts in the window of data slot 0, ended in the span or still going on at its end, carries TABLE's kind code.
DESIGN CHOICE (notes/assumptions/30.md): where several receptions start in that window and one of them carries the
code, the span is the table block for all of them; R7 has each reception's own code decide its span. -/
def overTableBlock (i : Nat) (nominal : Time) (line : SpanLine) (c : Cyc) : Bool :=
  i == 0 &&
    (match c.layout with
     | .placed => true
     | .notPlaced => false
     | .unknown =>
       line.heard.any (fun r => tableInWindow nominal r.start r.bits) ||
         line.carrierAtEnd.any (fun r => tableInWindow nominal r.start r.bits))

/-- In an open data phase a reception that is a Valid BID is unslotted and belongs to no data slot (R12): the slot is
reported as if that BID had not been in its span (notes/assumptions/35.md). -/
def withoutBids (p : Profile) (heard : List Reception) : List Reception :=
  heard.filter (fun r =>
    match judgeBits p .unslottedHeld r.bits with
    | some (.bid _) => false
    | _ => true)

/-- The position after data slot `next - 1` in an open or a fixed data phase. -/
def passDataSlot (isOpen : Bool) (next : Nat) (s : State) : State :=
  { s with cyc := { s.cyc with position := if isOpen then .dataOpen next else .dataFixed (some next) } }

/-- The end of the span of data slot `i`, or of the table block, the data phase starting at `d` (R7 to R10, R13, R16,
R118). DESIGN CHOICE (notes/assumptions/36.md): a Valid TABLE that SSU does not load (R72) has fixed the end of the data
phase and restarted the line-lost timer like any Valid frame (R10, R16, R21), although R72 has the station go on as if
the table block had been Damaged. -/
def dataSlotReport (isOpen : Bool) (i : Nat) (d : Time) (line : SpanLine) (s : State) : State :=
  let own := ownSlotFrame s
  let nominal := d + slotsTime dataSlotTime i
  let line := if isOpen then { line with heard := withoutBids s.mgt.profile line.heard } else line
  let block := overTableBlock i nominal line s.cyc
  let spanEnd := nominal + (if block then us 64 else dataSlotTime) - halfWindow
  let next := if block then i + 4 else i + 1
  let part := if block then CyclePart.tableBlock else CyclePart.dataSlot i
  let c := classifySlot s.mgt.profile part nominal spanEnd own line
  let s := passDataSlot isOpen next (dropSlotEcho s)
  match c with
  | .silent => s
  | .damaged => countEvent .damagedFrames s
  | .valid f r =>
    let s := fixEndSlotted i next f r s
    if !block && inTableBlock s.alc i then s else handDataFrame spanEnd f s

/-- The end of the present span (R10): the position says which part of the cycle it is. -/
def slotReport (line : SpanLine) (s : State) : State :=
  if s.cyc.state.inactive then s
  else
    match s.cyc.position, s.cyc.annStart, s.cyc.dataStart with
    | .gap, _, _ => if s.cyc.boundaryDue then s else gapReport line s
    | .announce k, some a, _ => bidSlotReport k a line s
    | .dataFixed (some i), _, some d => if slotBeforeEnd i s.cyc then dataSlotReport false i d line s else s
    | .dataOpen i, _, some d => dataSlotReport true i d line s
    | _, _, _ => s

/-! ### Unslotted receptions -/

/-- CD was deasserted throughout the span of bid slot `i` of the announcement phase that starts at `a`, and the
receiver was enabled throughout it (R15): no carrier that ended before the fixing BID lies in it. -/
def slotWasSilent (a : Time) (i : Nat) (l : Lif) : Bool :=
  let start := a + slotsTime bidSlotTime i - halfWindow
  (match l.receiverSince with
   | none => false
   | some since => decide (since ≤ start)) &&
    l.carriers.all (fun c => decide (c.2 ≤ start) || decide (start + bidSlotTime ≤ c.1))

/-- The slots below `j`, whose spans passed before the position placed them, are entered as Silent or Damaged
(R15, R48). -/
def enterPassedSlots (a : Time) (s : State) : Nat → State
  | 0 => s
  | i + 1 =>
    let s := enterPassedSlots a s i
    enterRecord i ⟨if slotWasSilent a i s.lif then .silent else .damaged, false, none, true⟩ s

/-- An unslotted Valid BID begins a new cycle (R15, R25): timing and boundary first, then the records of the slots
passed and its own, blindness, echo result, profile and number. DESIGN CHOICE, three times. A BID that halts the station
by its number takes no boundary step, so that R30 is met in LEAVING too, and DuplicateNumber is kept where the step would
have given JoinFailed (R46) or a step loss (notes/assumptions/31.md). A BID whose own boundary step leads into LISTEN
is the first BID judged after that entry and is compared (R29, notes/assumptions/32.md). A BID whose own boundary step
leads into STOPPED or HALTED is neither entered nor counted in DamagedFrames (R48, notes/assumptions/37.md). -/
def beginCycleByBid (own : Bool) (f : BidFrame) (r : Reception) (s : State) : State :=
  let a := r.start - slotsTime bidSlotTime f.station.val
  let s := restartLineLost r.stop
    { s with cyc := { s.cyc with position := .announce f.station.val, cycleStart := some (a - gapTime),
                                 annStart := some a, dataStart := none, dataEnd := none, unslottedUntil := none,
                                 fixedAt := some r.stop } }
  let s := if isDuplicate f.station own s then clearCycle s else takeBoundary r.stop s
  if s.cyc.state.inactive then s
  else
    let s := enterBid f.station.val own f (enterPassedSlots a s f.station.val)
    let s := goBlind s
    let s := if own then countEcho true s else s
    checkDuplicate f.station own (compareProfile f.check s)

/-- A Valid START heard unslotted fixes the start of a cycle 10 microseconds after its frame end (R17); what starts
before that gap's span is unslotted (R12, notes/assumptions/14.md). -/
def fixCycleByStart (frameEnd : Time) (s : State) : State :=
  let s := gapAt (frameEnd + gapTime) .unknown (restartLineLost frameEnd s)
  { s with cyc := { s.cyc with bids := BidTable.clear, unslottedUntil := some (frameEnd + gapTime - halfWindow),
                               fixedAt := some frameEnd } }

/-- The end of a data phase whose slots are not known is fixed at `stop` by a frame that ended at `frameEnd` (R16):
receptions up to `stop` remain unslotted. -/
def fixUnknownSlots (frameEnd : Time) (stop : Option Time) (s : State) : State :=
  { s with cyc := { s.cyc with
      position := .dataFixed none, dataEnd := stop, unslottedUntil := stop.map (fun t => t - halfWindow),
      fixedAt := some frameEnd } }

/-- A Valid data-phase frame heard unslotted fixes the end of the data phase (R16). In the positions that R16 does not
name it sets the lock and restarts the line-lost timer, and no more (notes/assumptions/34.md). -/
def fixEndUnslotted (f : Frame) (r : Reception) (s : State) : State :=
  let s := restartLineLost r.stop s
  match s.cyc.position with
  | .none => fixUnknownSlots r.stop (endFromFrame f r) s
  | .dataFixed none => fixUnknownSlots r.stop (endFromFrame f r) s
  | .gap => s
  | .announce _ => s
  | .dataFixed (some _) => s
  | .dataOpen _ => s

/-- A Valid frame heard unslotted (R12). `own` says that it is the echo of the frame the station transmitted; a START
so heard is one that a session end has cut off from its founding, and changes no state (R43). -/
def takeUnslotted (own : Bool) (f : Frame) (r : Reception) (s : State) : State :=
  match f with
  | .bid g => beginCycleByBid own g r s
  | .start st check =>
    if own then s else checkDuplicate st false (compareProfile check (fixCycleByStart r.stop s))
  | .segment g => takeSegment r.stop g (fixEndUnslotted f r s)
  | .abort g => takeAbort g (fixEndUnslotted f r s)
  | .empty _ => fixEndUnslotted f r s
  | .table g => takeTable g (fixEndUnslotted f r s)

/-- A reception that started before the first span that the position gives (R12, R16): it stays unslotted though it
ends later (notes/assumptions/34.md). -/
def startedUnslotted (r : Reception) (c : Cyc) : Bool :=
  match c.unslottedUntil with
  | none => false
  | some t => decide (r.start < t)

/-- A reception is unslotted in the present position (R12, R16, R17): none is held, or the slot index is unknown, or
the gap a START fixed has not begun, or the reception started before then; in an open data phase, only a Valid BID
is. -/
def unslottedHere (f : Option Frame) (r : Reception) (c : Cyc) : Bool :=
  startedUnslotted r c ||
    (match c.position with
     | .none => true
     | .dataFixed none => true
     | .gap => c.boundaryDue
     | .dataOpen _ =>
       (match f with
        | some (.bid _) => true
        | _ => false)
     | .announce _ => false
     | .dataFixed (some _) => false)

/-- The part of the cycle an unslotted reception is judged in: with a position held it lies in some part of the cycle
(R7). -/
def unslottedPart (c : Cyc) : CyclePart := if c.position = .none then .unslotted else .unslottedHeld

/-- The own frame whose echo lay in the reception now over is judged in no slot any more (notes/assumptions/25.md). -/
def abandonEcho (s : State) : State :=
  if s.lif.tx.isSome then s else { s with lif := { s.lif with echo := none } }

/-- The founder's START was not heard back (R33): LISTEN, from whatever state the station has reached since, with the
timing cleared. -/
def startEchoFailed (t : Time) (s : State) : State := enterListen t (abandonEcho (loseTiming s))

/-- The echo of an own START is judged (R11, R33): counted where it is no Valid frame (R13). Where it ends before the
transmission does, its result waits for the end (notes/assumptions/11.md). -/
def judgeStartEcho (e : EchoWatch) (f : Option Frame) (r : Reception) (s : State) : State :=
  let passed := f == some e.frame
  let s := if f.isNone then countEvent .damagedFrames s else s
  if s.lif.sendsStart then { s with lif := { s.lif with startEcho := some { e with result := some passed } } }
  else
    let s := { s with lif := { s.lif with startEcho := none } }
    if passed then
      if s.cyc.timingLock then restartLineLost r.stop s else s
    else startEchoFailed r.stop s

/-- The receiver is disabled once the frame in transmission and its echo are dealt with (R22). -/
def switchReceiverOff (s : State) : State :=
  { s with lif := { s.lif with
      receiver := .off, receiverSince := none, echo := none, startEcho := none, carriers := [] } }

/-- The echo judged while the receiver finishes after an entry into STOPPED or HALTED (R22): counted where it is no
Valid frame, with no other effect (notes/assumptions/10.md). -/
def finishEcho (f : Option Frame) (s : State) : State :=
  let s := if f.isNone then countEvent .damagedFrames s else s
  if s.lif.tx.isSome then
    match s.lif.echo with
    | none => s
    | some e => { s with lif := { s.lif with echo := some { e with result := some (f == some e.frame) } } }
  else switchReceiverOff s

/-- The reception began while the receiver was enabled (notes/assumptions/12.md). -/
def heardWhole (r : Reception) (l : Lif) : Bool :=
  match l.receiverSince with
  | none => false
  | some since => decide (since ≤ r.start)

/-- An unslotted reception that the receiver heard whole, judged as `f` (R12): counted where it is no Valid frame (R13).
`own` is the frame whose echo it may be. -/
def takeReception (own : Option Frame) (f : Option Frame) (r : Reception) (s : State) : State :=
  match f with
  | none => countEvent .damagedFrames s
  | some g => takeUnslotted (own == some g) g r s

/-- A reception placed in no slot is judged whole at its frame end (R12). With no position held it may be the echo of an
own frame whose slot was lost with the position (R21). -/
def unslottedReception (r : Reception) (s : State) : State :=
  match s.lif.receiver with
  | .off => s
  | .finishing => finishEcho (judgeBits s.mgt.profile .unslotted r.bits) s
  | .on =>
    if !heardWhole r s.lif then s
    else
      match s.lif.startEcho with
      | some e => judgeStartEcho e (judgeBits s.mgt.profile .unslotted r.bits) r s
      | none =>
        let f := judgeBits s.mgt.profile (unslottedPart s.cyc) r.bits
        if unslottedHere f r s.cyc then
          if s.cyc.position = .none then takeReception (ownSlotFrame s) f r (dropSlotEcho s)
          else takeReception none f r s
        else s

end Sys2Proof.Machine
end

