-- ==== Sys2Proof/Machine/LineCommands.lean ====
section
/-! DEFINITION. The family of the line: OWN_BID, SLOT_REPORT, UNSLOTTED_RECEPTION, CYCLE_BOUNDARY, TABLE_SEND,
FRAME_REQUEST. -/

namespace Sys2Proof.Machine

/-- OWN_BID (R19, R22, R26, R49): a placeable own bid is composed and handed to LIF, which holds one frame at a time. -/
def execOwnBid (s : State) : Host.Outcome State Fault Refusal :=
  .next (if lineFree s && s.cyc.state.bids && bidPlaceable s then transmit (.bid (ownBidFrame s)) s else s)

/-- SLOT_REPORT (R10): the end of the present span. -/
def execSlotReport (line : SpanLine) (s : State) : Host.Outcome State Fault Refusal :=
  .next (slotReport line s)

/-- UNSLOTTED_RECEPTION (R12). -/
def execUnslottedReception (r : Reception) (s : State) : Host.Outcome State Fault Refusal :=
  .next (unslottedReception r s)

/-- CYCLE_BOUNDARY (R25): the start of the gap span that the position leads to. -/
def execCycleBoundary (s : State) : Host.Outcome State Fault Refusal :=
  match nextGap s.cyc with
  | none => .next s
  | some start => .next (beginGap start s)

/-- TABLE_SEND (R6, R19, R70): at data slot 0 of a placed table block, the table source hands its TABLE to LIF with
remaining count T - 4. -/
def execTableSend (s : State) : Host.Outcome State Fault Refusal :=
  match s.ssu.tableOut, s.alc.grants with
  | some f, some g =>
    .next
      (if lineFree s && s.cyc.state = .inStep && s.cyc.position == .dataFixed (some 0) && s.cyc.layout == .placed then
        transmit (.table { f with remain := natByte (g.total - 4) }) { s with ssu := { s.ssu with tableOut := none } }
      else s)
  | _, _ => .next s

/-- The entry of the own granted data slot that the position stands at, with the slot and T (R19, R91, R93). -/
def ownGrantedSlot (s : State) : Option (Grant × Nat × Nat) :=
  match s.alc.grants, s.cyc.position with
  | some g, .dataFixed (some i) =>
    if s.cyc.state = .inStep && slotBeforeEnd i s.cyc then
      (ownEntryAt g (ownNumber s) i).map (fun e => (e, i, g.total))
    else none
  | _, _ => none

/-- FRAME_REQUEST (R6, R22, R91, R107): TXQ supplies a frame of the entry's class, and LIF sends it with remaining count
T - 1 - i. One frame is sent in each own granted slot: while the frame of a slot is in transmission or its echo is still
to be judged, a request finds nothing (notes/assumptions/2.md). -/
def execFrameRequest (s : State) : Host.Outcome State Fault Refusal :=
  match ownGrantedSlot s with
  | none => .next s
  | some (e, i, total) =>
    .next (if lineFree s then transmit (frameFor e.cls (natByte (total - 1 - i)) s) (frameSupplied e.cls s) else s)

end Sys2Proof.Machine
end

