-- ==== Sys2Proof/Machine/Management.lean ====
section
/-! DEFINITION. MGT: the register map, reads and writes over SPI, and the commands JOIN, LEAVE and FLUSH (chapter 10,
11.3). -/

namespace Sys2Proof.Machine

/-! ### Reading registers (R165, R172, 11.3) -/

/-- The code of a station state in STATION (11.3). -/
def StationState.code : StationState → BitVec 4
  | .config => 0
  | .listen => 1
  | .starting => 2
  | .joining => 3
  | .inStep => 4
  | .blind => 5
  | .outOfStep => 6
  | .leaving => 7
  | .stopped => 8
  | .halted => 9

/-- The code of a halt cause in STATION (11.3). -/
def HaltCause.code : HaltCause → BitVec 3
  | .none => 0
  | .profileMismatch => 1
  | .duplicateNumber => 2
  | .echoFault => 3
  | .joinFailed => 4

/-- The code of a JOIN refusal reason in NQJOIN (11.3). -/
def JoinRefusal.code : JoinRefusal → BitVec 4
  | .none => 0
  | .lineSize => 1
  | .budget => 2
  | .expressCap => 3
  | .quantum => 4
  | .silenceLimit => 5
  | .stationNumber => 6
  | .weight => 7

/-- The STATION register (11.3). -/
def stationRegister (c : Cyc) : Half :=
  0#6 ++ BitVec.ofBool c.eligibleLast ++ BitVec.ofBool c.timingLock ++ 0#1 ++ c.haltCause.code ++ c.state.code

/-- Two depths in one register, the second from bit 8 (11.3). -/
def depthPair (low high : Nat) : Half := natByte high ++ natByte low

/-- A steering entry (11.3). -/
def steerEntry (l : LocalSettings) (e : Nat) : SteerEntry := l.steer.getD e SteerEntry.reset

/-- STEER_A of an entry (11.3). -/
def steerA (e : SteerEntry) : Half := BitVec.ofBool e.valid ++ e.action ++ 0#1 ++ e.clsM ++ 0#3 ++ e.srcM

/-- STEER_B of an entry (11.3). -/
def steerB (e : SteerEntry) : Half := e.tagV ++ e.tagMask

/-- The profile and the local settings as the registers 0x10 to 0x3F hold them (11.3); an address of that range with
no register reads 0 (R177). -/
def readSetting (p : Profile) (l : LocalSettings) (addr : Nat) : Half :=
  match addr with
  | 0x10 => p.n.setWidth 16
  | 0x11 => p.b.setWidth 16
  | 0x12 => p.a.setWidth 16
  | 0x13 => p.q1.setWidth 16
  | 0x14 => p.q2.setWidth 16
  | 0x15 => p.q3.setWidth 16
  | 0x16 => p.silence.setWidth 16
  | 0x18 => l.station.setWidth 16
  | 0x19 => l.groups.setWidth 16
  | 0x1A => 0#11 ++ BitVec.ofBool l.damaged ++ 0#2 ++ l.mode
  | 0x1B => l.weights.c3 ++ l.weights.c2 ++ l.weights.c1 ++ l.weights.c0
  | addr =>
    if 0x20 ≤ addr ∧ addr ≤ 0x3F then
      if addr % 2 = 0 then steerA (steerEntry l ((addr - 0x20) / 2)) else steerB (steerEntry l ((addr - 0x20) / 2))
    else 0

/-- The value of a register (R165, R172, R173, 11.3); COMMAND and an address with no register read 0 (R177). -/
def readRegister (s : State) (addr : BitVec 7) : Half :=
  match counterOfAddr addr with
  | some c => s.mgt.counters.get c
  | none =>
    match addr.toNat with
    | 0x00 => 0
    | 0x01 => s.mgt.events.toHalf
    | 0x02 => s.mgt.mask.toHalf
    | 0x03 => stationRegister s.cyc
    | 0x04 => s.ssu.sched.cycle
    | 0x05 => s.ssu.sched.memberBits
    | 0x06 => BitVec.ofNat 16 s.txq.free
    | 0x07 => BitVec.ofNat 16 s.ras.free
    | 0x08 => depthPair s.txq.queues.c0.length s.txq.queues.c1.length
    | 0x09 => depthPair s.txq.queues.c2.length s.txq.queues.c3.length
    | 0x0A => depthPair s.dlv.queues.c0.length s.dlv.queues.c1.length
    | 0x0B => depthPair s.dlv.queues.c2.length s.dlv.queues.c3.length
    | 0x0C => 0#4 ++ s.mgt.refusal.code ++ natByte s.dlv.notices.length
    | 0x0D => s.mgt.profile.check.setWidth 16
    | a => readSetting s.mgt.profile s.mgt.settings a

/-- The capture of a read (R165): the value is taken, and no cause has arisen since (R171). -/
def captureRead (addr : BitVec 7) (s : State) : State :=
  { s with mgt := { s.mgt with capture := some ⟨addr, readRegister s addr⟩, arisen := EventFlags.clear } }

/-- Another transaction: a read in progress is over (R165). -/
def endRead (s : State) : State := { s with mgt := { s.mgt with capture := none } }

/-- The completion of a read of EVENTS (R171). -/
def completeEventsRead (s : State) : State :=
  match s.mgt.capture with
  | none => s
  | some c =>
    if c.addr = 0x01 then
      endRead { s with mgt := { s.mgt with
        events := eventsAfterRead (EventFlags.ofHalf c.value) s.mgt.events s.mgt.arisen } }
    else s

/-- The completion of a read of a counter's register (R173): the counter is reduced by the value returned. -/
def completeCounterRead (k : Counter) (s : State) : State :=
  match s.mgt.capture with
  | none => s
  | some c =>
    if c.addr = counterAddr k then
      endRead { s with mgt := { s.mgt with
        counters := s.mgt.counters.set k (BitVec.ofNat 16 ((s.mgt.counters.get k).toNat - c.value.toNat)) } }
    else s

/-! ### Commands (R27, R43, R114, R168) -/

/-- A command or a write is refused (R168, R170): nothing but CMDREF. -/
def refuseCommand (s : State) : State := raiseEvent .cmdRef s

/-- JOIN taken at `t` (R27, R167). -/
def joinCommand (t : Time) (s : State) : State :=
  if s.cyc.state = .config ∨ s.cyc.state = .stopped then
    let reason := joinValidation s.mgt.profile s.mgt.settings
    let s := { s with mgt := { s.mgt with refusal := reason } }
    if reason = .none then
      enterListen t { s with cyc := { s.cyc with joinAttempt := 0, echoFault := 0, leavePending := false } }
    else raiseEvent .joinRef s
  else refuseCommand s

/-- LEAVE (R43). -/
def leaveCommand (s : State) : State :=
  match s.cyc.state with
  | .joining => { s with cyc := { s.cyc with leavePending := true } }
  | .inStep => { s with cyc := { s.cyc with leavePending := true } }
  | .blind => { s with cyc := { s.cyc with leavePending := true } }
  | .outOfStep => { s with cyc := { s.cyc with leavePending := true } }
  | .listen => enterStopped s
  | .starting => enterStopped s
  | .leaving => s
  | .config => refuseCommand s
  | .stopped => refuseCommand s
  | .halted => refuseCommand s

/-- FLUSH of class `cls` (R114): refused in CONFIG. -/
def flushCommand (cls : Class) (s : State) : State :=
  if s.cyc.state = .config then refuseCommand s else flushQueue cls s

/-! ### SOFT RESET (R169) -/

/-- The framer at a reset: an emission ends with a BREAK (R163, R164). -/
def framerAfterReset (f : Framer) : Framer :=
  match f with
  | .idle => .idle
  | .emitting _ _ => .breakPending
  | .breakPending => .breakPending

/-- SOFT RESET (R169): every block clears its runtime state; the profile, the local settings and the event mask are
kept; STATE is set where the station was in another state than CONFIG (R24). -/
def softResetCommand (s : State) : State :=
  let events := EventFlags.clear.set .state (s.cyc.state != .config)
  { s with
      cleaning := true, lif := Lif.reset, cyc := Cyc.reset, ssu := Ssu.reset, alc := Alc.reset, txq := Txq.reset,
      ras := Ras.reset, dlv := Dlv.reset, trb := ⟨.skip, framerAfterReset s.trb.framer⟩,
      mgt := { Mgt.reset with profile := s.mgt.profile, settings := s.mgt.settings, mask := s.mgt.mask,
                              events := events, arisen := events } }

/-! ### Writing registers (R166, R177) -/

/-- A completed write to COMMAND (R168, 11.3): the command its field names, or CMDREF (R177). -/
def commandWrite (t : Time) (v : Half) (s : State) : State :=
  match (v.extractLsb' 0 4).toNat with
  | 1 => joinCommand t s
  | 2 => leaveCommand s
  | 3 => flushCommand (v.extractLsb' 8 2).toFin s
  | 4 => softResetCommand s
  | _ => refuseCommand s

/-- STEER_A written (11.3, R177). -/
def writeSteerA (v : Half) (e : SteerEntry) : SteerEntry :=
  { e with valid := v.getLsbD 15, action := v.extractLsb' 12 3, clsM := v.extractLsb' 8 3, srcM := v.extractLsb' 0 5 }

/-- STEER_B written (11.3). -/
def writeSteerB (v : Half) (e : SteerEntry) : SteerEntry :=
  { e with tagV := v.extractLsb' 8 8, tagMask := v.extractLsb' 0 8 }

/-- An address of a profile or local-setting register (11.3). -/
def isSettingAddr (addr : Nat) : Bool :=
  decide (0x10 ≤ addr) && decide (addr ≤ 0x3F) && addr != 0x17 && addr != 0x1C && addr != 0x1D && addr != 0x1E
    && addr != 0x1F

/-- A value stored in the profile (R166, 11.3): within the width of its field. -/
def writeProfile (addr : Nat) (v : Half) (p : Profile) : Profile :=
  match addr with
  | 0x10 => { p with n := v.setWidth 5 }
  | 0x11 => { p with b := v.setWidth 8 }
  | 0x12 => { p with a := v.setWidth 8 }
  | 0x13 => { p with q1 := v.setWidth 6 }
  | 0x14 => { p with q2 := v.setWidth 6 }
  | 0x15 => { p with q3 := v.setWidth 6 }
  | 0x16 => { p with silence := v.setWidth 3 }
  | _ => p

/-- A value stored in the local settings (R166, 11.3). -/
def writeLocal (addr : Nat) (v : Half) (l : LocalSettings) : LocalSettings :=
  match addr with
  | 0x18 => { l with station := v.setWidth 4 }
  | 0x19 => { l with groups := v.setWidth 8 }
  | 0x1A => { l with mode := v.setWidth 2, damaged := v.getLsbD 4 }
  | 0x1B =>
    { l with weights := ⟨v.extractLsb' 0 4, v.extractLsb' 4 4, v.extractLsb' 8 4, v.extractLsb' 12 4⟩ }
  | addr =>
    if 0x20 ≤ addr ∧ addr ≤ 0x3F then
      let e := (addr - 0x20) / 2
      let written := if addr % 2 = 0 then writeSteerA v (steerEntry l e) else writeSteerB v (steerEntry l e)
      { l with steer := l.steer.set e written }
    else l

/-- The completion at `t` of a write (R165, R166, R171, R177): a command; the mask; a profile or local setting, stored
in CONFIG and refused with CMDREF elsewhere; any other address is ignored. -/
def writeRegister (t : Time) (addr : BitVec 7) (v : Half) (s : State) : State :=
  if addr = 0x00 then commandWrite t v s
  else if addr = 0x02 then { s with mgt := { s.mgt with mask := EventFlags.ofHalf v } }
  else if isSettingAddr addr.toNat then
    if s.cyc.state = .config then
      { s with mgt := { s.mgt with profile := writeProfile addr.toNat v s.mgt.profile,
                                   settings := writeLocal addr.toNat v s.mgt.settings } }
    else refuseCommand s
  else s

end Sys2Proof.Machine
end

