-- ==== Sys2Proof/Machine/ManagementCommands.lean ====
section
/-! DEFINITION. The family of the management port: JOIN, LEAVE, FLUSH, UNKNOWN_COMMAND, REGISTER_WRITE, READ_CAPTURE,
EVENTS_READ, COUNTER_READ. While the RESET pin is asserted MGT takes no transaction (R165). -/

namespace Sys2Proof.Machine

/-- JOIN (R27, R167). -/
def execJoin (t : Time) (s : State) : Host.Outcome State Fault Refusal :=
  .next (if s.pins.resetPin then s else joinCommand t (endRead s))

/-- LEAVE (R43). -/
def execLeave (s : State) : Host.Outcome State Fault Refusal :=
  .next (if s.pins.resetPin then s else leaveCommand (endRead s))

/-- FLUSH of class `c` (R114). -/
def execFlush (c : Class) (s : State) : Host.Outcome State Fault Refusal :=
  .next (if s.pins.resetPin then s else flushCommand c (endRead s))

/-- A COMMAND write whose field names no command (R177): CMDREF. A code that names a command is a row of its own and
does nothing here (notes/assumptions/20.md). -/
def execUnknownCommand (code : BitVec 4) (s : State) : Host.Outcome State Fault Refusal :=
  .next (if s.pins.resetPin then s
    else if code = 0 ∨ 5 ≤ code.toNat then refuseCommand (endRead s) else s)

/-- The completion of a register write (R165, R166, R171, R177). -/
def execRegisterWrite (t : Time) (addr : BitVec 7) (value : Half) (s : State) : Host.Outcome State Fault Refusal :=
  .next (if s.pins.resetPin then s else writeRegister t addr value (endRead s))

/-- The capture of a read (R165). -/
def execReadCapture (addr : BitVec 7) (s : State) : Host.Outcome State Fault Refusal :=
  .next (if s.pins.resetPin then s else captureRead addr s)

/-- The completion of a read of EVENTS (R171). -/
def execEventsRead (s : State) : Host.Outcome State Fault Refusal :=
  .next (if s.pins.resetPin then s else completeEventsRead s)

/-- The completion of a read of a counter (R173). -/
def execCounterRead (c : Counter) (s : State) : Host.Outcome State Fault Refusal :=
  .next (if s.pins.resetPin then s else completeCounterRead c s)

end Sys2Proof.Machine
end

