-- ==== Sys2Proof/Machine/Spi.lean ====
section
/-! DEFINITION. The SPI transaction of the management port (R165): its 24 bits, the command that each rising edge of
SCLK brings, and MISO. -/

namespace Sys2Proof.Machine

/-- The bits of a number of `n` bits, most significant first (R165). -/
def msbBits {n : Nat} (v : BitVec n) : List Bool := (List.range n).map (fun i => v.getLsbD (n - 1 - i))

/-- The number whose bits, most significant first, are given (R165). -/
def msbValue (n : Nat) (bits : List Bool) : BitVec n :=
  BitVec.ofNat n (bits.foldl (fun acc b => 2 * acc + b.toNat) 0)

/-- The 24 bits on MOSI of a transaction: direction (1 for a write), register address, data (R165). On a read the data
bits of MOSI are not read. -/
def spiBits (write : Bool) (addr : BitVec 7) (data : Half) : List Bool := write :: (msbBits addr ++ msbBits data)

/-- The direction bit of a transaction: a write (R165). -/
def spiWrites (bits : List Bool) : Bool := bits.headD false

/-- The register address of a transaction (R165). -/
def spiAddr (bits : List Bool) : BitVec 7 := msbValue 7 ((bits.drop 1).take 7)

/-- The data of a write (R165). -/
def spiData (bits : List Bool) : Half := msbValue 16 ((bits.drop 8).take 16)

/-- The command that a completed write of `v` to register `addr` at `t` is (R165, R168, 11.3): at COMMAND the row its
field names, elsewhere REGISTER_WRITE (notes/assumptions/20.md). -/
def writeCommand (t : Time) (addr : BitVec 7) (v : Half) : Instr :=
  if addr = 0x00 then
    match (v.extractLsb' 0 4).toNat with
    | 1 => .join t
    | 2 => .leave
    | 3 => .flush (v.extractLsb' 8 2).toFin
    | 4 => .softReset
    | _ => .unknownCommand (v.extractLsb' 0 4)
  else .registerWrite t addr v

/-- The command that a completed read of register `addr` is (R165, R171, R173): only EVENTS and the counters clear at
the completion; the completion of any other read does nothing. -/
def readCommand (addr : BitVec 7) : Option Instr :=
  if addr = 0x01 then some .eventsRead else (counterOfAddr addr).map Instr.counterRead

/-- The command that the rising edge of SCLK at `t` brings, `bits` being what the transaction has sampled on MOSI up to
and with that edge, first bit first (R165): the capture of a read at bit 8, the completion at bit 24, and nothing at any
other edge. A transaction whose CSN rises before bit 24 never reaches its completion; edges after it are ignored. -/
def spiEdge (t : Time) (bits : List Bool) : Option Instr :=
  if bits.length = 8 then
    if spiWrites bits then none else some (.readCapture (spiAddr bits))
  else if bits.length = 24 then
    if spiWrites bits then some (writeCommand t (spiAddr bits) (spiData bits)) else readCommand (spiAddr bits)
  else none

/-- The bit MISO drives (R165). `port` is none while CSN is high, and otherwise what the transaction has sampled on MOSI
up to the last falling edge of SCLK: in a read, bit 9 follows the capture at bit 8, and the value goes out most
significant bit first up to bit 24. In every other place MISO is high-impedance or has no stated level
(notes/assumptions/26.md): while CSN is high or the RESET pin is asserted, in a write, in the first eight bits, and
after the completion. -/
def misoBit (s : State) (port : Option (List Bool)) : Option Bool :=
  match port, s.mgt.capture with
  | some bits, some c =>
    if !s.pins.resetPin && !spiWrites bits && decide (8 ≤ bits.length) && decide (bits.length < 24)
        && spiAddr bits == c.addr then
      some (c.value.getLsbD (23 - bits.length))
    else none
  | _, _ => none

end Sys2Proof.Machine
end

