-- ==== Sys2Proof/Machine/Resets.lean ====
section
/-! DEFINITION. The family of resets: POWER_ON, RESET_PIN_ASSERT, RESET_PIN_RELEASE, CLEAN_UP_COMPLETE, SOFT_RESET. -/

namespace Sys2Proof.Machine

/-- POWER_ON (R174): every piece of state at its power-on value; CD is an input and keeps its level
(notes/assumptions/15.md). -/
def execPowerOn (s : State) : Host.Outcome State Fault Refusal :=
  .next { State.reset with pins := { s.pins with resetPin := false }, freeIx := s.freeIx, pending := s.pending }

/-- RESET_PIN_ASSERT (R174): every piece of state at its reset value, the outputs held at rest by the pin; the parser
will start in SKIP (R160), and a framer in emission or with a BREAK pending has a BREAK pending, held back until the
clean-up after the release (R164). -/
def execResetPinAssert (s : State) : Host.Outcome State Fault Refusal :=
  let framer := framerAfterReset s.trb.framer
  .next { State.reset with
    pins := { s.pins with resetPin := true }, breakHeld := framer == .breakPending, trb := ⟨.skip, framer⟩,
    freeIx := s.freeIx, pending := s.pending }

/-- RESET_PIN_RELEASE (R174): the outputs are no longer held; the clean-up is still to complete. -/
def execResetPinRelease (s : State) : Host.Outcome State Fault Refusal :=
  .next { s with pins := { s.pins with resetPin := false } }

/-- CLEAN_UP_COMPLETE (R154, R164): IREADY rises, and a BREAK held back is offered. While the RESET pin is asserted no
clean-up completes. -/
def execCleanUpComplete (s : State) : Host.Outcome State Fault Refusal :=
  .next (if s.pins.resetPin then s else { s with cleaning := false, breakHeld := false })

/-- SOFT RESET (R169); no transaction is taken while the RESET pin is asserted (R165). -/
def execSoftReset (s : State) : Host.Outcome State Fault Refusal :=
  .next (if s.pins.resetPin then s else softResetCommand s)

end Sys2Proof.Machine
end

