-- ==== Sys2Proof/Machine/TimerCommands.lean ====
section
/-! DEFINITION. The family of carrier and time: CARRIER_DETECT, LISTEN_TIMER_EXPIRY, COLD_START_DELAY_END,
TRANSMISSION_END, LINE_LOST_TIMER_EXPIRY, STALE_TIMER_EXPIRY. -/

namespace Sys2Proof.Machine

/-- How long a carrier that has ended is remembered for R15: the longest gap and announcement phase (R5). -/
def carrierMemory : Time := us 106

/-- The carriers remembered once one that began at `start` has ended at `t` (R15, notes/assumptions/13.md): a BID places
the slots before it by its frame start, so an earlier carrier counts by its distance from that start. -/
def rememberCarrier (start t : Time) (cs : List (Time × Time)) : List (Time × Time) :=
  (start, t) :: cs.filter (fun c => decide (start - carrierMemory ≤ c.2))

/-- CD is asserted at `t` (R20, R32): the listen timer is held at zero, an echo has carrier, and a running cold-start
timer gives way to LISTEN. -/
def carrierRises (t : Time) (s : State) : State :=
  let s := { s with pins := { s.pins with cd := true, cdSince := t },
                    lif := { s.lif with
                      echo := s.lif.echo.map (fun e => { e with carrierSeen := true }),
                      startEcho := s.lif.startEcho.map (fun e => { e with carrierSeen := true }) } }
  if s.cyc.state = .starting && s.cyc.coldStart != .stopped then enterListen t s
  else if s.cyc.listenTimer = .stopped then s
  else { s with cyc := { s.cyc with listenTimer := .held } }

/-- CD is deasserted at `t` (R20): the listen timer starts again from zero; an enabled receiver remembers the
carrier (R15). -/
def carrierFalls (t : Time) (s : State) : State :=
  let carriers := if s.lif.receiver = .off then [] else rememberCarrier s.pins.cdSince t s.lif.carriers
  let s := { s with pins := { s.pins with cd := false, cdSince := t }, lif := { s.lif with carriers := carriers } }
  if s.cyc.listenTimer = .stopped then s
  else { s with cyc := { s.cyc with listenTimer := .running t } }

/-- CARRIER_DETECT (R20, R32): a change of CD. -/
def execCarrierDetect (t : Time) (level : Bool) (s : State) : Host.Outcome State Fault Refusal :=
  .next (if s.pins.cd = level then s else if level then carrierRises t s else carrierFalls t s)

/-- LISTEN_TIMER_EXPIRY (R20, R32): STARTING, with the cold-start timer running from the expiry. -/
def execListenTimerExpiry (t : Time) (s : State) : Host.Outcome State Fault Refusal :=
  match s.cyc.state, s.cyc.listenTimer with
  | .listen, .running since =>
    if since + listenTimeout ≤ t then
      let s := enterState .starting s
      .next { s with cyc := { s.cyc with listenTimer := .stopped, coldStart := .running t } }
    else .next s
  | _, _ => .next s

/-- COLD_START_DELAY_END (R32, R33): CYC hands LIF a START with the own number and the own profile check. -/
def execColdStartDelayEnd (t : Time) (s : State) : Host.Outcome State Fault Refusal :=
  .next
    (if s.cyc.state = .starting && s.cyc.coldStart.reached (coldStartDelay (ownNumber s)) t then
      transmitStart (.start (ownNumber s) (ownCheck s)) { s with cyc := { s.cyc with coldStart := .stopped } }
    else s)

/-- The line is founded at the end `t` of the own START (R17, R33). -/
def foundLine (t : Time) (s : State) : State :=
  withSched (foundingSched (ownNumber s)) (fixCycleByStart t (enterInStep s))

/-- The echo of the own START at the end `t` of its transmission (R11, R33): judged already, missing where no carrier
was seen, or still to be judged (notes/assumptions/11.md). -/
def settleStartEcho (t : Time) (s : State) : State :=
  match s.lif.startEcho with
  | none => s
  | some e =>
    let done := { s with lif := { s.lif with startEcho := none } }
    match e.result with
    | some true => done
    | some false => startEchoFailed t done
    | none => if e.carrierSeen then s else startEchoFailed t done

/-- A frame's transmission is over and no slot and no reception will judge its echo: none was seen, or it has been
judged (R22, notes/assumptions/25.md). -/
def echoOver (s : State) : Bool :=
  match s.lif.echo with
  | none => true
  | some e => e.result.isSome || !e.carrierSeen

/-- The end at `t` of the transmission of `f` (R22, R33, R70), TXEN already deasserted. -/
def afterTransmission (t : Time) (f : Frame) (s : State) : State :=
  let s := if f.kind = .table then countEvent .tablesSent s else s
  if s.lif.receiver = .finishing then (if echoOver s then switchReceiverOff s else s)
  else if f.kind = .start && s.cyc.state = .starting then settleStartEcho t (foundLine t s)
  else if (s.cyc.position = .none || f.kind = .start) && echoOver s then { s with lif := { s.lif with echo := none } }
  else s

/-- TRANSMISSION_END (R1, R22): TXEN is deasserted after the last check bit. -/
def execTransmissionEnd (t : Time) (s : State) : Host.Outcome State Fault Refusal :=
  match s.lif.tx with
  | none => .next s
  | some f => .next (afterTransmission t f { s with lif := { s.lif with tx := none } })

/-- The station state at the expiry of the line-lost timer at `t` (R42). -/
def lineLoss (t : Time) (s : State) : State :=
  match s.cyc.state with
  | .joining => stepLoss t s
  | .inStep => stepLoss t s
  | .blind => stepLoss t s
  | .outOfStep => stepLoss t s
  | .leaving => enterStopped s
  | .listen => s
  | .starting => s
  | .config => s
  | .stopped => s
  | .halted => s

/-- LINE_LOST_TIMER_EXPIRY (R21, R42). -/
def execLineLostTimerExpiry (t : Time) (s : State) : Host.Outcome State Fault Refusal :=
  .next (if s.cyc.lineLost.reached lineLostTimeout t then lineLoss t (forgetEcho (loseTiming s)) else s)

/-- STALE_TIMER_EXPIRY (R122). -/
def execStaleTimerExpiry (t : Time) (src : Station) (cls : Class) (s : State) : Host.Outcome State Fault Refusal :=
  .next (staleExpiry t src cls s)

end Sys2Proof.Machine
end

