-- ==== Sys2Proof/Machine/Tributary.lean ====
section
/-! DEFINITION. The ingress side of TRB: the parser and what it hands to TXQ (R155 to R160). -/

namespace Sys2Proof.Machine

/-- The parser passes to a state (R156). -/
def setParser (p : Parser) (s : State) : State := { s with trb := { s.trb with parser := p } }

/-- A HEAD word is taken (R156). -/
def takeHead (w : Word) (s : State) : State :=
  match s.trb.parser with
  | .idle => setParser (.header (firstHeadOf w)) s
  | .header h => setParser (.payload (payloadWords (headLength w)) 0) (headerTaken h (headTag w) (headLength w) s)
  | .payload _ _ => setParser (.header (firstHeadOf w)) (messageEnd .malformed s)
  | .overrun => setParser (.header (firstHeadOf w)) (messageEnd .malformed s)
  | .stray cls => setParser (.header (firstHeadOf w)) (raiseRefused .malformed cls 0 s)
  | .skip => setParser (.header (firstHeadOf w)) s

/-- A BODY word is taken (R156). -/
def takeBody (w : Word) (s : State) : State :=
  match s.trb.parser with
  | .idle => setParser (.stray 0) s
  | .header h => setParser (.stray h.cls) s
  | .payload e n =>
    if n + 1 < e then setParser (.payload e (n + 1)) (payloadTaken w s) else setParser .overrun s
  | .overrun => s
  | .stray _ => s
  | .skip => s

/-- A TAIL word is taken (R156). -/
def takeTail (w : Word) (s : State) : State :=
  match s.trb.parser with
  | .idle => raiseRefused .malformed 0 0 s
  | .header h => setParser .idle (raiseRefused .malformed h.cls 0 s)
  | .payload e n =>
    if n + 1 = e then setParser .idle (messageEnd .wellFormed (payloadTaken w s))
    else setParser .idle (messageEnd .malformed s)
  | .overrun => setParser .idle (messageEnd .malformed s)
  | .stray cls => setParser .idle (raiseRefused .malformed cls 0 s)
  | .skip => setParser .idle s

/-- A BREAK word is taken (R156, R159): its data word is not read. -/
def takeBreak (s : State) : State :=
  match s.trb.parser with
  | .idle => s
  | .header h => setParser .idle (raiseRefused .broken h.cls 0 s)
  | .payload _ _ => setParser .idle (messageEnd .broken s)
  | .overrun => setParser .idle (messageEnd .broken s)
  | .stray cls => setParser .idle (raiseRefused .malformed cls 0 s)
  | .skip => setParser .idle s

/-- A word taken on ingress (R156). -/
def takeIngressWord (kind : WordKind) (w : Word) (s : State) : State :=
  match kind with
  | .head => takeHead w s
  | .body => takeBody w s
  | .tail => takeTail w s
  | .brk => takeBreak s

end Sys2Proof.Machine
end

