-- ==== Sys2Proof/Machine/TributaryCommands.lean ====
section
/-! DEFINITION. The family of the tributary port: INGRESS_WORD and EGRESS_WORD_TAKEN. -/

namespace Sys2Proof.Machine

/-- INGRESS_WORD (R153, R154, R156): taken while IREADY is high; otherwise it stays with the local side. -/
def execIngressWord (kind : WordKind) (data : Word) (s : State) : Host.Outcome State Fault Refusal :=
  .next (if ireadyPin s then takeIngressWord kind data s else s)

/-- EGRESS_WORD_TAKEN (R153, R161): the offered word is taken; while EVALID is low there is none. -/
def execEgressWordTaken (s : State) : Host.Outcome State Fault Refusal :=
  .next (if evalidPin s then takeEgressWord s else s)

end Sys2Proof.Machine
end

