-- ==== Sys2Proof/Machine/Dispatch.lean ====
section
/-! DEFINITION. What each command does: one arm per constructor, one call of its meaning. -/

namespace Sys2Proof.Machine

def exec (i : Instr) (s : State) : Host.Outcome State Fault Refusal :=
  match i with
  | .powerOn => Sys2Proof.Machine.execPowerOn s
  | .resetPinAssert => Sys2Proof.Machine.execResetPinAssert s
  | .resetPinRelease => Sys2Proof.Machine.execResetPinRelease s
  | .cleanUpComplete => Sys2Proof.Machine.execCleanUpComplete s
  | .join t => Sys2Proof.Machine.execJoin t s
  | .leave => Sys2Proof.Machine.execLeave s
  | .flush c => Sys2Proof.Machine.execFlush c s
  | .softReset => Sys2Proof.Machine.execSoftReset s
  | .unknownCommand code => Sys2Proof.Machine.execUnknownCommand code s
  | .registerWrite t addr value => Sys2Proof.Machine.execRegisterWrite t addr value s
  | .eventsRead => Sys2Proof.Machine.execEventsRead s
  | .counterRead c => Sys2Proof.Machine.execCounterRead c s
  | .carrierDetect t level => Sys2Proof.Machine.execCarrierDetect t level s
  | .listenTimerExpiry t => Sys2Proof.Machine.execListenTimerExpiry t s
  | .coldStartDelayEnd t => Sys2Proof.Machine.execColdStartDelayEnd t s
  | .transmissionEnd t => Sys2Proof.Machine.execTransmissionEnd t s
  | .lineLostTimerExpiry t => Sys2Proof.Machine.execLineLostTimerExpiry t s
  | .ownBid => Sys2Proof.Machine.execOwnBid s
  | .slotReport line => Sys2Proof.Machine.execSlotReport line s
  | .unslottedReception r => Sys2Proof.Machine.execUnslottedReception r s
  | .cycleBoundary => Sys2Proof.Machine.execCycleBoundary s
  | .tableSend => Sys2Proof.Machine.execTableSend s
  | .frameRequest => Sys2Proof.Machine.execFrameRequest s
  | .staleTimerExpiry t src cls => Sys2Proof.Machine.execStaleTimerExpiry t src cls s
  | .ingressWord kind data => Sys2Proof.Machine.execIngressWord kind data s
  | .egressWordTaken => Sys2Proof.Machine.execEgressWordTaken s
  | .readCapture addr => Sys2Proof.Machine.execReadCapture addr s

end Sys2Proof.Machine
end

