-- ==== Sys2Proof/Safety.lean ====
section
/-! DEFINITION. What a safe run is: the laws of the device that the manual states of its pools, queues, tables and
station states, as predicates on one state. -/

namespace Sys2Proof.Machine

/-! ### Counting -/

/-- The sum of four numbers. -/
def fourSum (f : Four Nat) : Nat := f.c0 + f.c1 + f.c2 + f.c3

/-- The buffers a class queue holds, reserved and unsent (R95). -/
def queueBuffers (q : List Descriptor) : Nat := (q.map (fun d => d.bufs.length)).sum

/-- The buffers of every class queue (R95). -/
def txHeld (x : Txq) : Nat :=
  fourSum ⟨queueBuffers x.queues.c0, queueBuffers x.queues.c1, queueBuffers x.queues.c2, queueBuffers x.queues.c3⟩

/-- The buffers reserved by open contexts (R119). -/
def contextBuffers (cs : List Context) : Nat := (cs.map (fun c => c.bufs.length)).sum

/-- The buffers on loan to the records of one delivery queue (R119). -/
def recordBuffers (rs : List DeliveredRecord) : Nat := (rs.map (fun r => r.bufs.length)).sum

/-- The buffers on loan to the four delivery queues (R119). -/
def deliveryBuffers (d : Dlv) : Nat :=
  fourSum ⟨recordBuffers d.queues.c0, recordBuffers d.queues.c1, recordBuffers d.queues.c2, recordBuffers d.queues.c3⟩

/-- The buffers on loan to the record in emission (R119, R147). -/
def Framer.buffers : Framer → Nat
  | .idle => 0
  | .emitting rec _ => rec.buffers
  | .breakPending => 0

/-! ### The pools -/

/-- The law of the transmit pool (R95): free, reserved and unsent buffers total 256. -/
def TxPoolLaw (s : State) : Prop := s.txq.free + txHeld s.txq = 256

/-- The law of the receive pool (R119): free buffers, buffers reserved by contexts and buffers on loan total 512. -/
def RxPoolLaw (s : State) : Prop :=
  s.ras.free + contextBuffers s.ras.contexts + deliveryBuffers s.dlv + s.trb.framer.buffers = 512

/-! ### Capacities -/

/-- The capacities of the class queues (R97), the reassembly table (R121), the delivery queues and the notice queue
(R139), the range of the lost count (R141), and the sixteen steering entries (R136). -/
def CapacityLaw (s : State) : Prop :=
  (∀ c, (s.txq.queues.get c).length ≤ 16) ∧ s.ras.contexts.length ≤ 32 ∧
    (∀ q, (s.dlv.queues.get q).length ≤ 32) ∧ s.dlv.notices.length ≤ 16 ∧ s.dlv.lost ≤ 255 ∧
    s.mgt.settings.steer.length = 16

/-! ### Station states -/

/-- The receiver is enabled exactly outside CONFIG, STOPPED and HALTED (R12); one that finishes an own frame there
(R22) is not enabled for anything else. -/
def ReceiverLaw (s : State) : Prop := s.lif.receiver = .on ↔ s.cyc.state.inactive = false

/-- What CONFIG, STOPPED and HALTED hold: empty class queues (R116), an empty reassembly table (R134), an empty schedule
state with its digest (R64, R65), no grant list (R77, R78), no timing (R14, R20, R21), a cleared bid table (R47), no
announcement outcome (R61), no START whose echo could still act (R43), and cleared marks and counts (R45). -/
def SessionLaw (s : State) : Prop :=
  s.cyc.state.inactive = true →
    (∀ c, s.txq.queues.get c = []) ∧ s.ras.contexts = [] ∧
    s.ssu.sched = Sched.empty ∧ s.ssu.tableOut = none ∧ s.alc.grants = none ∧
    s.cyc.timingLock = false ∧ s.cyc.position = .none ∧ s.cyc.layout = .unknown ∧
    s.cyc.cycleStart = none ∧ s.cyc.annStart = none ∧ s.cyc.dataStart = none ∧ s.cyc.dataEnd = none ∧
    s.cyc.unslottedUntil = none ∧ s.cyc.fixedAt = none ∧ s.lif.startEcho = none ∧ s.cyc.listenTimer = .stopped ∧
    s.cyc.lineLost = .stopped ∧ s.cyc.coldStart = .stopped ∧
    s.cyc.bids = BidTable.clear ∧ s.cyc.outcome = none ∧ s.cyc.eligibleLast = false ∧
    s.cyc.leavePending = false ∧ s.cyc.pendingLoad = none ∧
    s.cyc.joinCycle = 0 ∧ s.cyc.outOfStep = 0 ∧ s.cyc.echoFault = 0

/-- Outside CONFIG the stored profile and local settings pass the JOIN validation (R166, R167). -/
def ProfileLaw (s : State) : Prop :=
  s.cyc.state ≠ .config → joinValidation s.mgt.profile s.mgt.settings = .none

/-! ### The schedule state and the bid table -/

/-- The bounds of R64 on a schedule state, for a profile, with a row for each of the sixteen stations. -/
def ScheduleBounds (p : Profile) (d : Sched) : Prop :=
  d.rows.length = 16 ∧ d.pointer ≤ 15 ∧
    ∀ st : Station,
      ((d.row st).member = true → st.val < p.lineSize ∧ (d.row st).silence < p.limit) ∧
      ((d.row st).member = false → d.row st = SchedRow.clear) ∧
      ∀ c : Class, c ≠ 0 → (d.row st).deficit c ≤ 4 * p.quantum c

/-- A Valid record of the bid table carries its own slot's number, below N, demands of at most B, and demand 0 beside
any flag (R4, R47, R48). -/
def BidTableLaw (p : Profile) (t : BidTable) : Prop :=
  t.records.length = 16 ∧
    ∀ (k : Nat) (b : ValidBid), (t.record k).status = .valid b →
      b.station.val = k ∧ k < p.lineSize ∧ (b.flag ≠ .none → b.demand = Four.all 0) ∧
      ∀ c : Class, b.demand.get c ≤ p.budget

/-- The schedule state lies within its bounds, and the own digest describes it (R64, R65). -/
def ScheduleLaw (s : State) : Prop :=
  ScheduleBounds s.mgt.profile s.ssu.sched ∧ s.ssu.digest = s.ssu.sched.digest ∧
    BidTableLaw s.mgt.profile s.cyc.bids

/-! ### Class queues and contexts -/

/-- A descriptor as R98 and R99 give it: the class of its queue, K for its length, and, by its state, its sequence, its
next fragment index and its buffers. -/
def Descriptor.lawful (cls : Class) (d : Descriptor) : Prop :=
  d.cls = cls ∧ 1 ≤ d.len ∧ d.len ≤ 1024 ∧ d.segments = segmentCount d.len ∧
    match d.st with
    | .arriving => d.seq = none ∧ d.next = 0 ∧ d.bufs.length = d.segments
    | .queued => d.seq.isSome = true ∧ d.next = 0 ∧ d.bufs.length = d.segments
    | .sending => d.seq.isSome = true ∧ 1 ≤ d.next ∧ d.next < d.segments ∧ d.bufs.length = d.segments - d.next
    | .aborting => d.seq.isSome = true ∧ d.bufs = []

/-- A class queue (R97, R99): lawful descriptors, Sending or Aborting only at the head, Arriving only at the tail. -/
def QueueLaw (cls : Class) (q : List Descriptor) : Prop :=
  (∀ d ∈ q, d.lawful cls) ∧ (∀ d ∈ q.tail, d.st ≠ .sending ∧ d.st ≠ .aborting) ∧
    ∀ d ∈ q.dropLast, d.st ≠ .arriving

/-- No descriptor of the queue is Arriving. -/
def noArriving (q : List Descriptor) : Prop := ∀ d ∈ q, d.st ≠ .arriving

/-- The ingress record against the queues and the parser (R99, R100, R156, R157): the one Arriving descriptor is the
tail of the Admitted class, and what the parser has handed on is what has been written. -/
def IngressLaw (s : State) : Prop :=
  (match s.txq.ingress with
   | .none => (∀ c, noArriving (s.txq.queues.get c)) ∧ s.trb.parser ≠ .overrun ∧ ∀ e n, s.trb.parser ≠ .payload e n
   | .discarding _ _ _ =>
     (∀ c, noArriving (s.txq.queues.get c)) ∧ (s.trb.parser = .overrun ∨ ∃ e n, s.trb.parser = .payload e n)
   | .admitted cls written =>
     (∀ c, c ≠ cls → noArriving (s.txq.queues.get c)) ∧
       ∃ d, (s.txq.queues.get cls).getLast? = some d ∧ d.st = .arriving ∧
         (s.trb.parser = .overrun ∨
           ∃ e n, s.trb.parser = .payload e n ∧ e = payloadWords d.len ∧ written = 4 * n)) ∧
    ∀ e n, s.trb.parser = .payload e n → n < e

/-- The class queues and the ingress record (R97 to R100). -/
def ClassQueueLaw (s : State) : Prop := (∀ c, QueueLaw c (s.txq.queues.get c)) ∧ IngressLaw s

/-- The reassembly table (R121): a context per key at most, none of the own number, each with 2 to 32 buffers for its
length and its next index among them. -/
def ContextLaw (s : State) : Prop :=
  s.ras.contexts.Pairwise (fun c d => ¬(c.src = d.src ∧ c.cls = d.cls)) ∧
    ∀ c ∈ s.ras.contexts, c.src ≠ ownNumber s ∧ c.len ≤ 1024 ∧ c.bufs.length = segmentCount c.len ∧
      1 ≤ c.next ∧ c.next < c.bufs.length

/-! ### The terms of claims -/

/-- The bits that the fields of a profile or local-setting register occupy (11.3). -/
def fieldMask (addr : Nat) : Half :=
  if addr = 0x10 then 0x001F
  else if addr = 0x11 ∨ addr = 0x12 ∨ addr = 0x19 then 0x00FF
  else if addr = 0x13 ∨ addr = 0x14 ∨ addr = 0x15 then 0x003F
  else if addr = 0x16 then 0x0007
  else if addr = 0x18 then 0x000F
  else if addr = 0x1A then 0x0013
  else if addr = 0x1B then 0xFFFF
  else if addr % 2 = 0 then 0xF71F
  else 0xFFFF

/-- The commands that reset the part: power-on, the RESET pin and SOFT RESET (R23, R169, R174). -/
def isReset : Instr → Bool
  | .powerOn | .resetPinAssert | .softReset => true
  | .registerWrite _ addr value => addr == 0 && (value.extractLsb' 0 4).toNat == 4
  | _ => false

/-- The position stands at a data slot `i` that the grant list held gives to this station for class `cls`, and
`remain` is T - 1 - i (R6, R89, R91, R107). -/
def granted (s : State) (cls : Class) (remain : Byte) : Prop :=
  ∃ (g : GrantList) (e : Grant) (i : Nat), s.alc.grants = some g ∧ e ∈ g.entries ∧ e.station = ownNumber s ∧
    e.cls = cls ∧ e.first ≤ i ∧ i < e.first + e.count ∧ s.cyc.position = .dataFixed (some i) ∧
    remain = BitVec.ofNat 8 (g.total - 1 - i)

/-! ### A safe run -/

/-- Every law of the device. -/
def DeviceLaws (s : State) : Prop :=
  TxPoolLaw s ∧ RxPoolLaw s ∧ CapacityLaw s ∧ ReceiverLaw s ∧ SessionLaw s ∧ ProfileLaw s ∧ ScheduleLaw s ∧
    ClassQueueLaw s ∧ ContextLaw s

/-- A step is safe from `s` where it answers a next state that keeps every law. -/
def SafeStep (s : State) : Prop := ∃ t, step s = .next t ∧ DeviceLaws t

end Sys2Proof.Machine
end

