-- ==== Sys2Proof/Certificates/Slice0/Obligations.lean ====
section
/-! DEFINITION. The statements for the provers, from the numbered rules of spec/, chapter by chapter. -/

open Sys2Proof Sys2Proof.Machine

/-! ### The machine as a queue of commands, and its resets -/

/-- A step takes the command that has waited longest; with none waiting the part idles (notes/assumptions/4.md). -/
def Obligations.StepTakesFrontCommand : Prop :=
  (∀ (c : Instr) (rest : List Instr) (s : State),
    s.pending = c :: rest → step s = exec c { s with pending := rest }) ∧
  ∀ s : State, s.pending = [] → step s = .next s

/-- No command faults or is refused, and none touches the queue. -/
def Obligations.EveryCommandAnswersNext : Prop :=
  ∀ (c : Instr) (s : State), ∃ t, exec c s = .next t ∧ t.pending = s.pending

/-- The part right after power-on, as the blocks and as the registers show it (R24, R64, R95, R103, R119, R138, R141,
R146, R156, R161, R166, R170, R173, R174, 11.3). -/
def Obligations.ResetValues : Prop :=
  let s := State.reset
  (s.cyc.state = .config ∧ s.cyc.haltCause = .none ∧ s.cyc.leavePending = false ∧ s.cyc.joinAttempt = 0 ∧
    s.cyc.joinCycle = 0 ∧ s.cyc.outOfStep = 0 ∧ s.cyc.echoFault = 0 ∧ s.cyc.profileChecked = false ∧
    s.cyc.coldStart = .stopped ∧ s.cyc.pendingLoad = none ∧ s.cyc.timingLock = false ∧ s.cyc.position = .none ∧
    s.cyc.layout = .unknown ∧ s.cyc.unslottedUntil = none ∧ s.cyc.fixedAt = none ∧ s.cyc.listenTimer = .stopped ∧
    s.cyc.lineLost = .stopped ∧
    s.cyc.bids = BidTable.clear ∧ s.cyc.outcome = none ∧ s.cyc.eligibleLast = false) ∧
  (s.lif.receiver = .off ∧ s.lif.echo = none ∧ s.lif.startEcho = none ∧ txenPin s = false ∧
    s.ssu.sched = Sched.empty ∧ s.ssu.digest = Sched.empty.digest ∧
    s.alc.grants = none ∧ s.txq.free = 256 ∧ s.txq.queues = Four.all [] ∧ s.txq.seqs = Four.all 0 ∧
    s.txq.ingress = .none ∧ s.ras.free = 512 ∧ s.ras.contexts = [] ∧ s.dlv.queues = Four.all [] ∧
    s.dlv.notices = [] ∧ s.dlv.lost = 0 ∧ s.dlv.pointer = 0 ∧ s.dlv.run = 0 ∧ s.trb.parser = .idle ∧
    s.trb.framer = .idle ∧ evalidPin s = false ∧ attnPin s = false) ∧
  ([(0x00 : BitVec 7), 0x01, 0x02, 0x03, 0x04, 0x05, 0x06, 0x07, 0x08, 0x09, 0x0A, 0x0B, 0x0C, 0x10, 0x11, 0x12, 0x13,
      0x14, 0x15, 0x16, 0x18, 0x19, 0x1A, 0x1B].map (readRegister s) =
    [0, 0, 0, 0, 0, 0, 256, 512, 0, 0, 0, 0, 0, 16, 64, 8, 8, 4, 2, 3, 0, 0, 0, 0x1111]) ∧
  (∀ a : BitVec 7, 0x20 ≤ a.toNat → a.toNat ≤ 0x3F → readRegister s a = 0) ∧
  ∀ c : Counter, readRegister s (counterAddr c) = 0

/-- Every law of the device holds right after power-on. -/
def Obligations.DeviceLawsAtReset : Prop :=
 DeviceLaws State.reset

/-- POWER_ON, RESET_PIN_ASSERT, RESET_PIN_RELEASE and CLEAN_UP_COMPLETE (R174, R154, R160, R163, R164). CD is an input
and keeps its level (notes/assumptions/15.md); the clean-up is outstanding after each reset
(notes/assumptions/16.md).
While the RESET pin is asserted, no SPI transaction and no tributary word is taken (R153, R154, R164, R165). -/
def Obligations.PowerAndResetPin : Prop :=
  ((∀ s : State, exec .powerOn s = .next
    { pins := { s.pins with resetPin := false }, cleaning := true, breakHeld := false, lif := Lif.reset,
      cyc := Cyc.reset, ssu := Ssu.reset, alc := Alc.reset, txq := Txq.reset, ras := Ras.reset, dlv := Dlv.reset,
      trb := ⟨.idle, .idle⟩, mgt := Mgt.reset, freeIx := s.freeIx, pending := s.pending }) ∧
  (∀ s : State, ∃ t, exec .resetPinAssert s = .next t ∧
    t = { pins := { s.pins with resetPin := true }, cleaning := true,
          breakHeld := !decide (s.trb.framer = .idle), lif := Lif.reset, cyc := Cyc.reset, ssu := Ssu.reset,
          alc := Alc.reset, txq := Txq.reset, ras := Ras.reset, dlv := Dlv.reset,
          trb := ⟨.skip, if s.trb.framer = .idle then .idle else .breakPending⟩, mgt := Mgt.reset,
          freeIx := s.freeIx, pending := s.pending } ∧
    txenPin t = false ∧ ireadyPin t = false ∧ evalidPin t = false ∧ attnPin t = false ∧
    ∀ port, misoBit t port = none) ∧
  (∀ s : State, exec .resetPinRelease s = .next { s with pins := { s.pins with resetPin := false } }) ∧
  (∀ s : State, s.pins.resetPin = false → ∃ t, exec .cleanUpComplete s = .next t ∧
    t = { s with cleaning := false, breakHeld := false } ∧ ireadyPin t = true ∧
    (s.trb.framer = .breakPending → offeredWord t = some (.brk, 0))) ∧
  ∀ s : State, s.pins.resetPin = true → exec .cleanUpComplete s = .next s) ∧
  (∀ s : State, s.pins.resetPin = true →
    (∀ t, exec (.join t) s = .next s) ∧ exec .leave s = .next s ∧ (∀ c, exec (.flush c) s = .next s) ∧
    exec .softReset s = .next s ∧ (∀ k, exec (.unknownCommand k) s = .next s) ∧
    (∀ t a v, exec (.registerWrite t a v) s = .next s) ∧ exec .eventsRead s = .next s ∧
    (∀ c, exec (.counterRead c) s = .next s) ∧ (∀ a, exec (.readCapture a) s = .next s) ∧
    (∀ k w, exec (.ingressWord k w) s = .next s) ∧ exec .egressWordTaken s = .next s)

/-- SOFT_RESET (R169): every block clears its runtime state; the profile, the local settings and the event mask are
kept; STATE is set where the station was in another state than CONFIG. The level of CD, an input, is kept
(notes/assumptions/15.md), the clean-up is outstanding (notes/assumptions/16.md), and a read in progress is over
(notes/assumptions/19.md). -/
def Obligations.SoftResetClearsRuntimeState : Prop :=
  ∀ s : State, s.pins.resetPin = false →
    exec .softReset s = .next
      { s with
        cleaning := true, lif := Lif.reset, cyc := Cyc.reset, ssu := Ssu.reset, alc := Alc.reset, txq := Txq.reset,
        ras := Ras.reset, dlv := Dlv.reset,
        trb := ⟨.skip, if s.trb.framer = .idle then .idle else .breakPending⟩,
        mgt :=
          { s.mgt with
            events := { EventFlags.clear with state := !decide (s.cyc.state = .config) },
            arisen := { EventFlags.clear with state := !decide (s.cyc.state = .config) },
            refusal := .none, counters := Counters.clear, capture := none } }

/-- R163, whole: SOFT RESET against the egress framer, the BREAK held until it is taken, and the record boundary at
its taking. -/
def Obligations.SoftResetBreaksEmission : Prop :=
  (∀ (s : State) (rec : EgressRecord) (i : Nat),
    s.pins.resetPin = false → s.breakHeld = false → s.trb.framer = .emitting rec i →
    ∃ t, exec .softReset s = .next t ∧ t.trb.framer = .breakPending ∧ evalidPin t = true ∧
      offeredWord t = some (.brk, 0) ∧ t.ras.free = 512) ∧
  (∀ s : State, s.pins.resetPin = false → s.trb.framer = .idle →
    ∃ t, exec .softReset s = .next t ∧ t.trb.framer = .idle ∧ offeredWord t = none) ∧
  (∀ s : State, s.pins.resetPin = false → s.breakHeld = false → s.trb.framer = .breakPending →
    ∃ t, exec .softReset s = .next t ∧ t.trb.framer = .breakPending ∧ offeredWord t = some (.brk, 0)) ∧
  (∀ (c : Instr) (s : State), s.pins.resetPin = false → s.breakHeld = false → s.trb.framer = .breakPending →
    c ≠ .egressWordTaken → c ≠ .powerOn → c ≠ .resetPinAssert →
    ∃ t, exec c s = .next t ∧ t.trb.framer = .breakPending ∧ offeredWord t = some (.brk, 0)) ∧
  (∀ (n : Notice) (s : State), s.trb.framer = .breakPending → s.dlv.notices.length < 16 →
    (takeNotice n s).dlv.notices = s.dlv.notices ++ [{ n with lost := s.dlv.lost }] ∧
    (takeNotice n s).dlv.queues = s.dlv.queues) ∧
  ∀ s : State, s.pins.resetPin = false → s.breakHeld = false → s.trb.framer = .breakPending →
    exec .egressWordTaken s = .next (arbitrate { s with trb := { s.trb with framer := .idle } })

/-! ### The management port -/

/-- JOIN (R27, R28, R167, R168): LISTEN after a validation that passes, JOINREF and the reason after one that fails,
CMDREF in any other state. A read in progress is over (notes/assumptions/19.md), and a receiver that finishes an own
frame goes on with the moment since which it has been on (notes/assumptions/10.md, notes/assumptions/12.md).
The JOIN validation (R167): the first check of seven that fails gives the reason, and none fails exactly where every
value lies in its range. -/
def Obligations.JoinCommand : Prop :=
  ((∀ (t : Time) (s : State), s.pins.resetPin = false → (s.cyc.state = .config ∨ s.cyc.state = .stopped) →
    joinValidation s.mgt.profile s.mgt.settings = .none →
    exec (.join t) s = .next
      { s with
        lif := { s.lif with
          receiver := .on,
          receiverSince :=
            match s.lif.receiver with
            | .off => some t
            | .on => s.lif.receiverSince
            | .finishing => s.lif.receiverSince },
        cyc := { s.cyc with
          state := .listen, leavePending := false, joinAttempt := 0, joinCycle := 0, outOfStep := 0, echoFault := 0,
          profileChecked := false, coldStart := .stopped, pendingLoad := none, outcome := none,
          eligibleLast := false, listenTimer := if s.pins.cd then .held else .running t },
        ssu := ⟨Sched.empty, Sched.empty.digest, none⟩, alc := ⟨none⟩,
        mgt := { s.mgt with
          capture := none, refusal := .none,
          events := { s.mgt.events with state := true }, arisen := { s.mgt.arisen with state := true } } }) ∧
  (∀ (t : Time) (s : State), s.pins.resetPin = false → (s.cyc.state = .config ∨ s.cyc.state = .stopped) →
    joinValidation s.mgt.profile s.mgt.settings ≠ .none →
    exec (.join t) s = .next
      { s with mgt := { s.mgt with
          capture := none, refusal := joinValidation s.mgt.profile s.mgt.settings,
          events := { s.mgt.events with joinRef := true }, arisen := { s.mgt.arisen with joinRef := true } } }) ∧
  ∀ (t : Time) (s : State), s.pins.resetPin = false → s.cyc.state ≠ .config → s.cyc.state ≠ .stopped →
    exec (.join t) s = .next
      { s with mgt := { s.mgt with
          capture := none,
          events := { s.mgt.events with cmdRef := true }, arisen := { s.mgt.arisen with cmdRef := true } } }) ∧
  (∀ (p : Profile) (l : LocalSettings),
    let checks : List (Prop × JoinRefusal) :=
      [(2 ≤ p.lineSize ∧ p.lineSize ≤ 16, .lineSize), (8 ≤ p.budget ∧ p.budget ≤ 128, .budget),
        (p.cap ≤ p.budget, .expressCap),
        ((∀ c : Sys2Proof.Class, c ≠ 0 → 1 ≤ p.quantum c ∧ p.quantum c ≤ 32), .quantum),
        (2 ≤ p.limit ∧ p.limit ≤ 7, .silenceLimit), (l.station.toNat < p.lineSize, .stationNumber),
        ((∀ q : Sys2Proof.Class, 1 ≤ (l.weights.get q).toNat ∧ (l.weights.get q).toNat ≤ 8), .weight)]
    (joinValidation p l = .none ↔ ∀ c ∈ checks, c.1) ∧
    ∀ (pre : List (Prop × JoinRefusal)) (c : Prop × JoinRefusal) (post : List (Prop × JoinRefusal)),
      checks = pre ++ c :: post → (∀ d ∈ pre, d.1) → ¬c.1 → joinValidation p l = c.2)

/-- LEAVE (R43): leave-pending in the bidding states, the session end from LISTEN and STARTING, nothing further in
LEAVING, CMDREF elsewhere (R168). A read in progress is over (R165, notes/assumptions/19.md). -/
def Obligations.LeaveCommand : Prop :=
  ∀ s : State, s.pins.resetPin = false →
    ((s.cyc.state = .joining ∨ s.cyc.state = .inStep ∨ s.cyc.state = .blind ∨ s.cyc.state = .outOfStep) →
      exec .leave s = .next
        { s with cyc := { s.cyc with leavePending := true }, mgt := { s.mgt with capture := none } }) ∧
    ((s.cyc.state = .listen ∨ s.cyc.state = .starting) →
      exec .leave s = .next (enterStopped { s with mgt := { s.mgt with capture := none } })) ∧
    (s.cyc.state = .leaving → exec .leave s = .next { s with mgt := { s.mgt with capture := none } }) ∧
    ((s.cyc.state = .config ∨ s.cyc.state = .stopped ∨ s.cyc.state = .halted) →
      exec .leave s = .next
        { s with mgt := { s.mgt with
            capture := none,
            events := { s.mgt.events with cmdRef := true }, arisen := { s.mgt.arisen with cmdRef := true } } })

/-- FLUSH of class `c` (R114): by descriptor state, what stays in the class queue, which buffers come back, and the
Flushed notices in queue order; the other queues, the sequence counters and the ingress record stay. In CONFIG it is
refused (R168). A read in progress is over (R165, notes/assumptions/19.md). -/
def Obligations.FlushCommand : Prop :=
  (∀ (c : Sys2Proof.Class) (s : State), s.pins.resetPin = false → s.cyc.state ≠ .config →
    exec (.flush c) s = .next
      (takeNotices
        ((s.txq.queues.get c).filterMap (fun d =>
          match d.st with
          | .sending => some ⟨.flushed, d.cls, d.seq, d.tag, none, true, 0⟩
          | .queued => some ⟨.flushed, d.cls, d.seq, d.tag, none, false, 0⟩
          | _ => none))
        { s with
          txq := { s.txq with
            free := s.txq.free + ((s.txq.queues.get c).map (fun d =>
              match d.st with
              | .sending => d.bufs.length
              | .queued => d.bufs.length
              | _ => 0)).sum,
            queues := s.txq.queues.set c ((s.txq.queues.get c).filterMap (fun d =>
              match d.st with
              | .sending => some { d with bufs := [], st := .aborting }
              | .queued => none
              | _ => some d)) },
          mgt := { s.mgt with capture := none } })) ∧
  (∀ (c : Sys2Proof.Class) (s : State), s.pins.resetPin = false → s.cyc.state = .config →
    exec (.flush c) s = .next
      { s with mgt := { s.mgt with
          capture := none,
          events := { s.mgt.events with cmdRef := true }, arisen := { s.mgt.arisen with cmdRef := true } } }) ∧
  ∀ (ns : List Notice) (s : State), (takeNotices ns s).txq = s.txq ∧ (takeNotices ns s).ras = s.ras

/-- REGISTER_WRITE to a profile or local-setting register in CONFIG (R166, 11.3): the register reads back the written
value within its fields, every other such register reads as before, and nothing else changes but that a read in
progress is over (R165, notes/assumptions/19.md). The table of 11.3: the bits that each such register stores, and the
value of the profile or of the local settings that stands in them. -/
def Obligations.SettingWriteReadsBack : Prop :=
  (∀ x ∈ [(0x10, 0x001F), (0x11, 0x00FF), (0x12, 0x00FF), (0x13, 0x003F), (0x14, 0x003F), (0x15, 0x003F),
      (0x16, 0x0007), (0x18, 0x000F), (0x19, 0x00FF), (0x1A, 0x0013), (0x1B, (0xFFFF : Half))], fieldMask x.1 = x.2) ∧
  (∀ e : Fin 16, fieldMask (0x20 + 2 * e.val) = 0xF71F ∧ fieldMask (0x21 + 2 * e.val) = 0xFFFF) ∧
  (∀ a : BitVec 7, isSettingAddr a.toNat = true ↔
    (0x10 ≤ a.toNat ∧ a.toNat ≤ 0x16) ∨ (0x18 ≤ a.toNat ∧ a.toNat ≤ 0x1B) ∨ (0x20 ≤ a.toNat ∧ a.toNat ≤ 0x3F)) ∧
  (∀ s : State,
    let p := s.mgt.profile
    let l := s.mgt.settings
    (readRegister s 0x10).toNat = p.lineSize ∧ (readRegister s 0x11).toNat = p.budget ∧
    (readRegister s 0x12).toNat = p.cap ∧ (readRegister s 0x13).toNat = p.quantum 1 ∧
    (readRegister s 0x14).toNat = p.quantum 2 ∧ (readRegister s 0x15).toNat = p.quantum 3 ∧
    (readRegister s 0x16).toNat = p.limit ∧ (readRegister s 0x18).toNat = (ownNumber s).val ∧
    (∀ g : Nat, g < 8 → (readRegister s 0x19).getLsbD g = l.groups.getLsbD g) ∧
    (readRegister s 0x1A).extractLsb' 0 2 = l.mode ∧ (readRegister s 0x1A).getLsbD 4 = l.damaged ∧
    (∀ q : Sys2Proof.Class, (readRegister s 0x1B).extractLsb' (4 * q.val) 4 = l.weights.get q) ∧
    ∀ (e : Fin 16) (x : SteerEntry), l.steer[e.val]? = some x →
      let a := readRegister s (BitVec.ofNat 7 (0x20 + 2 * e.val))
      let b := readRegister s (BitVec.ofNat 7 (0x21 + 2 * e.val))
      a.getLsbD 15 = x.valid ∧ a.extractLsb' 12 3 = x.action ∧ a.extractLsb' 8 3 = x.clsM ∧
      a.extractLsb' 0 5 = x.srcM ∧ b.extractLsb' 8 8 = x.tagV ∧ b.extractLsb' 0 8 = x.tagMask) ∧
  ∀ (t : Time) (a : BitVec 7) (v : Half) (s : State),
    s.pins.resetPin = false → s.cyc.state = .config → s.mgt.settings.steer.length = 16 → isSettingAddr a.toNat = true →
    ∃ u, exec (.registerWrite t a v) s = .next u ∧
      u = { s with mgt := { s.mgt with profile := u.mgt.profile, settings := u.mgt.settings, capture := none } } ∧
      readRegister u a = v &&& fieldMask a.toNat ∧
      ∀ b : BitVec 7, b ≠ a → isSettingAddr b.toNat = true → readRegister u b = readRegister s b

/-- The other register writes (R166, R168, R171, R177): outside CONFIG a setting is locked and CMDREF set; the mask is
written in every state; a read-only or empty address is ignored; a write to COMMAND is the command its field names, and
CMDREF where it names none (notes/assumptions/20.md). A read in progress is over (R165, notes/assumptions/19.md). -/
def Obligations.OtherRegisterWrites : Prop :=
  ∀ (t : Time) (s : State), s.pins.resetPin = false →
    (∀ (a : BitVec 7) (v : Half), isSettingAddr a.toNat = true → s.cyc.state ≠ .config →
      exec (.registerWrite t a v) s = .next
        { s with mgt := { s.mgt with
            capture := none,
            events := { s.mgt.events with cmdRef := true }, arisen := { s.mgt.arisen with cmdRef := true } } }) ∧
    (∀ v : Half, ∃ u, exec (.registerWrite t 0x02 v) s = .next u ∧
      u = { s with mgt := { s.mgt with mask := u.mgt.mask, capture := none } } ∧
      readRegister u 0x02 = v &&& 0x003F) ∧
    (∀ (a : BitVec 7) (v : Half), a ≠ 0x00 → a ≠ 0x02 → isSettingAddr a.toNat = false →
      exec (.registerWrite t a v) s = .next { s with mgt := { s.mgt with capture := none } }) ∧
    (∀ v : Half, (v.extractLsb' 0 4).toNat = 1 → exec (.registerWrite t 0x00 v) s = exec (.join t) s) ∧
    (∀ v : Half, (v.extractLsb' 0 4).toNat = 2 → exec (.registerWrite t 0x00 v) s = exec .leave s) ∧
    (∀ v : Half, (v.extractLsb' 0 4).toNat = 3 →
      exec (.registerWrite t 0x00 v) s = exec (.flush (v.extractLsb' 8 2).toFin) s) ∧
    (∀ v : Half, (v.extractLsb' 0 4).toNat = 4 → exec (.registerWrite t 0x00 v) s = exec .softReset s) ∧
    (∀ v : Half, (v.extractLsb' 0 4 = 0 ∨ 5 ≤ (v.extractLsb' 0 4).toNat) →
      exec (.registerWrite t 0x00 v) s = exec (.unknownCommand (v.extractLsb' 0 4)) s) ∧
    ∀ k : BitVec 4, (k = 0 ∨ 5 ≤ k.toNat) →
      exec (.unknownCommand k) s = .next
        { s with mgt := { s.mgt with
            capture := none,
            events := { s.mgt.events with cmdRef := true }, arisen := { s.mgt.arisen with cmdRef := true } } }

/-- READ_CAPTURE (R165): the register's value is taken and shifted out, and nothing else of the part changes.
What the status registers hold, field by field (R172, 11.3), with the codes of 11.3; an address that holds no register
reads 0 (R177). ATTN (R171): asserted while an event flag is set whose mask flag is clear, but not while the RESET pin
is.
EVENTS_READ (R171): a flag set at the capture is cleared unless its cause arose again after it; every other flag
stays, and the rest of the part with it.
COUNTER_READ (R173): the counter is reduced by the value returned; every other counter, and the rest of the part,
stays. A read is over at its completion (notes/assumptions/19.md).
The 24 bits of a transaction (R165): which command each rising edge of SCLK brings, and what MISO drives; its levels
outside bits 9 to 24 of a read are notes/assumptions/26.md, a write to COMMAND notes/assumptions/20.md. -/
def Obligations.RegisterReads : Prop :=
  ([StationState.config, .listen, .starting, .joining, .inStep, .blind, .outOfStep, .leaving, .stopped, .halted].map
      StationState.code = [0, 1, 2, 3, 4, 5, 6, 7, 8, 9] ∧
    [HaltCause.none, .profileMismatch, .duplicateNumber, .echoFault, .joinFailed].map HaltCause.code =
      [0, 1, 2, 3, 4] ∧
    [JoinRefusal.none, .lineSize, .budget, .expressCap, .quantum, .silenceLimit, .stationNumber, .weight].map
      JoinRefusal.code = [0, 1, 2, 3, 4, 5, 6, 7] ∧
    [Counter.damagedFrames, .blindCycles, .stepLosses, .tablesLoaded, .tablesSent, .ingressRefused, .rxNoContext,
      .rxNoRoom, .rxGapAbort, .rxSenderAbort, .rxStaleAbort, .rxRemovalAbort, .steerDiscard, .queueOverflow0,
      .queueOverflow1, .queueOverflow2, .queueOverflow3].map counterAddr =
      [0x40, 0x41, 0x42, 0x43, 0x44, 0x45, 0x46, 0x47, 0x48, 0x49, 0x4A, 0x4B, 0x4C, 0x4D, 0x4E, 0x4F, 0x50]) ∧
  ((∀ (a : BitVec 7) (s : State), s.pins.resetPin = false → ∃ t, exec (.readCapture a) s = .next t ∧
    t = { s with mgt := { s.mgt with capture := some ⟨a, readRegister s a⟩, arisen := EventFlags.clear } } ∧
    misoBit t none = none ∧
    ∀ (v : Half) (n : Nat), 8 ≤ n → n < 24 →
      misoBit t (some ((spiBits false a v).take n)) = some ((readRegister s a).getLsbD (23 - n))) ∧
  (∀ s : State,
    readRegister s 0x00 = 0 ∧ readRegister s 0x04 = s.ssu.sched.cycle ∧
    (∀ st : Station, (readRegister s 0x05).getLsbD st.val = (s.ssu.sched.row st).member) ∧
    (s.txq.free ≤ 256 → (readRegister s 0x06).toNat = s.txq.free) ∧
    (s.ras.free ≤ 512 → (readRegister s 0x07).toNat = s.ras.free) ∧
    (readRegister s 0x03).extractLsb' 0 4 = s.cyc.state.code ∧
    (readRegister s 0x03).extractLsb' 4 3 = s.cyc.haltCause.code ∧
    (readRegister s 0x03).getLsbD 8 = s.cyc.timingLock ∧ (readRegister s 0x03).getLsbD 9 = s.cyc.eligibleLast ∧
    (readRegister s 0x03).getLsbD 7 = false ∧ (readRegister s 0x03).extractLsb' 10 6 = 0 ∧
    (readRegister s 0x0C).extractLsb' 8 4 = s.mgt.refusal.code ∧
    (readRegister s 0x0C).extractLsb' 12 4 = 0 ∧
    readRegister s 0x0D = (s.mgt.profile.check).setWidth 16 ∧
    s.mgt.profile.check = (crc16 ([s.mgt.profile.lineSize, s.mgt.profile.budget, s.mgt.profile.cap,
      s.mgt.profile.quantum 1, s.mgt.profile.quantum 2, s.mgt.profile.quantum 3, s.mgt.profile.limit].map
        (BitVec.ofNat 8))).setWidth 8 ∧
    (∀ a : BitVec 7, (a.toNat ∈ [0x0E, 0x0F, 0x17, 0x1C, 0x1D, 0x1E, 0x1F] ∨ 0x51 ≤ a.toNat) → readRegister s a = 0) ∧
    (attnPin s = true ↔ s.pins.resetPin = false ∧
      ∃ e : Event, s.mgt.events.get e = true ∧ s.mgt.mask.get e = false) ∧
    (∀ c : Counter, readRegister s (counterAddr c) = s.mgt.counters.get c) ∧
    (CapacityLaw s →
      ((readRegister s 0x08).extractLsb' 0 8).toNat = s.txq.queues.c0.length ∧
      ((readRegister s 0x08).extractLsb' 8 8).toNat = s.txq.queues.c1.length ∧
      ((readRegister s 0x09).extractLsb' 0 8).toNat = s.txq.queues.c2.length ∧
      ((readRegister s 0x09).extractLsb' 8 8).toNat = s.txq.queues.c3.length ∧
      ((readRegister s 0x0A).extractLsb' 0 8).toNat = s.dlv.queues.c0.length ∧
      ((readRegister s 0x0A).extractLsb' 8 8).toNat = s.dlv.queues.c1.length ∧
      ((readRegister s 0x0B).extractLsb' 0 8).toNat = s.dlv.queues.c2.length ∧
      ((readRegister s 0x0B).extractLsb' 8 8).toNat = s.dlv.queues.c3.length ∧
      ((readRegister s 0x0C).extractLsb' 0 8).toNat = s.dlv.notices.length)) ∧
  ∀ s : State, ∀ x ∈ [(readRegister s 0x01, s.mgt.events), (readRegister s 0x02, s.mgt.mask)],
    x.1.getLsbD 0 = x.2.state ∧ x.1.getLsbD 1 = x.2.halt ∧ x.1.getLsbD 2 = x.2.joinRef ∧
    x.1.getLsbD 3 = x.2.stepLoss ∧ x.1.getLsbD 4 = x.2.noticeLoss ∧ x.1.getLsbD 5 = x.2.cmdRef ∧
    x.1.extractLsb' 6 10 = 0) ∧
  ((∀ (s : State) (got : EventFlags), s.pins.resetPin = false → s.mgt.capture = some ⟨0x01, got.toHalf⟩ →
    ∃ t, exec .eventsRead s = .next t ∧
      t = { s with mgt := { s.mgt with events := t.mgt.events, capture := none } } ∧
      ∀ e : Event, t.mgt.events.get e =
        (s.mgt.events.get e && !(got.get e && !s.mgt.arisen.get e))) ∧
  (∀ s : State, s.pins.resetPin = false → ∃ t u, exec (.readCapture 0x01) s = .next t ∧
    exec .eventsRead t = .next u ∧ u.mgt.events = EventFlags.clear) ∧
  ∀ (e : Event) (s t u : State), s.pins.resetPin = false → exec (.readCapture 0x01) s = .next t →
    exec .eventsRead (raiseEvent e t) = .next u → u.mgt.events = EventFlags.clear.set e true) ∧
  ((∀ (k : Counter) (v : Half) (s : State), s.pins.resetPin = false → s.mgt.capture = some ⟨counterAddr k, v⟩ →
    v.toNat ≤ (s.mgt.counters.get k).toNat →
    ∃ t, exec (.counterRead k) s = .next t ∧
      t = { s with mgt := { s.mgt with counters := t.mgt.counters, capture := none } } ∧
      (t.mgt.counters.get k).toNat = (s.mgt.counters.get k).toNat - v.toNat ∧
      ∀ j : Counter, j ≠ k → t.mgt.counters.get j = s.mgt.counters.get j) ∧
  ∀ (k : Counter) (s : State), s.pins.resetPin = false → ∃ t u, exec (.readCapture (counterAddr k)) s = .next t ∧
    exec (.counterRead k) (countEvent k t) = .next u ∧
    (u.mgt.counters.get k).toNat = if s.mgt.counters.get k = 0xFFFF then 0 else 1) ∧
  ∀ (t : Time) (a : BitVec 7) (v : Half),
    (∃ c, spiEdge t (spiBits true a v) = some c ∧ (a ≠ 0x00 → c = .registerWrite t a v) ∧
      ∀ s : State, exec c s = exec (.registerWrite t a v) s) ∧
    spiEdge t ((spiBits false a v).take 8) = some (.readCapture a) ∧
    spiEdge t ((spiBits true a v).take 8) = none ∧
    (a = 0x01 → spiEdge t (spiBits false a v) = some .eventsRead) ∧
    (∀ k : Counter, a = counterAddr k → spiEdge t (spiBits false a v) = some (.counterRead k)) ∧
    (a ≠ 0x01 → (∀ k : Counter, a ≠ counterAddr k) → spiEdge t (spiBits false a v) = none) ∧
    ∀ bits : List Bool, bits.length ≠ 8 → bits.length ≠ 24 → spiEdge t bits = none

/-! ### Station life -/

/-- What entry into LISTEN does (R28), with STATE (R24), the cold-start timer (R32) and eligible-last-cycle (R61):
STOPPED in its place where leave-pending is set, and, from whatever state, the timing cleared at the entry that follows
a failed START echo (R14, R33). The schedule state of CONFIG and STOPPED is empty already. A receiver that finishes an
own frame goes on with the moment since which it has been on (notes/assumptions/10.md, notes/assumptions/12.md), and the
copy of an own frame whose echo lay in the failed reception is forgotten (notes/assumptions/25.md). -/
def Obligations.EnterListenEffects : Prop :=
  (∀ (t : Time) (s : State), s.cyc.leavePending = false → s.cyc.state ≠ .listen →
    enterListen t s =
      { s with
        lif := { s.lif with
          receiver := .on,
          receiverSince :=
            match s.lif.receiver with
            | .off => some t
            | .on => s.lif.receiverSince
            | .finishing => s.lif.receiverSince },
        cyc := { s.cyc with
          state := .listen, listenTimer := if s.pins.cd then .held else .running t, profileChecked := false,
          joinCycle := 0, outOfStep := 0, echoFault := 0, pendingLoad := none, coldStart := .stopped,
          outcome := none, eligibleLast := false },
        ssu := ⟨Sched.empty, Sched.empty.digest, none⟩, alc := ⟨none⟩,
        mgt := { s.mgt with
          events := { s.mgt.events with state := true }, arisen := { s.mgt.arisen with state := true } } }) ∧
  (∀ (t : Time) (s : State), s.cyc.leavePending = true → enterListen t s = enterStopped s) ∧
  ∀ (t : Time) (s : State),
    startEchoFailed t s = enterListen t
      { s with
        lif := { s.lif with echo := if s.lif.tx = none then none else s.lif.echo },
        cyc := { s.cyc with
          timingLock := false, position := .none, boundaryDue := false, cycleStart := none, annStart := none,
          dataStart := none, dataEnd := none, unslottedUntil := none, fixedAt := none, layout := .unknown,
          lineLost := .stopped } }

/-- The session end (R45, R46, R116, R134): what STOPPED and HALTED hold after entry, from any state in which the
transmit pool's law holds, and what entry keeps. TXQ's Flushed notices come queue by queue and in queue order, with the
partial marker of a Sending message (R116); RAS's contexts are aborted in an order that is free
(notes/assumptions/8.md), each counted and, with deliver-damaged on, handed on as Truncated with reason Removal (R129,
R134); which of the two comes first is free (notes/assumptions/9.md). The records and notices that wait are kept
(R45, R151). What finishes the echo of a frame in transmission is notes/assumptions/10.md. -/
def Obligations.SessionEnd : Prop :=
  (∀ s t : State, TxPoolLaw s →
    (t = enterStopped s ∨ (s.cyc.state ≠ .halted ∧ ∃ h, t = enterHalted h s)) →
    (∀ c, t.txq.queues.get c = []) ∧ t.txq.free = 256 ∧ t.txq.seqs = s.txq.seqs ∧ t.ras.contexts = [] ∧
    t.ssu = ⟨Sched.empty, Sched.empty.digest, none⟩ ∧ t.alc.grants = none ∧
    t.cyc.timingLock = false ∧ t.cyc.position = .none ∧ t.cyc.fixedAt = none ∧ t.cyc.listenTimer = .stopped ∧
    t.cyc.lineLost = .stopped ∧ t.cyc.coldStart = .stopped ∧ t.cyc.bids = BidTable.clear ∧ t.cyc.outcome = none ∧
    t.cyc.eligibleLast = false ∧
    t.cyc.leavePending = false ∧ t.cyc.pendingLoad = none ∧ t.cyc.joinCycle = 0 ∧ t.cyc.outOfStep = 0 ∧
    t.cyc.echoFault = 0 ∧ t.cyc.joinAttempt = s.cyc.joinAttempt ∧
    t.lif.tx = s.lif.tx ∧ t.lif.receiver = (if s.lif.tx.isSome then .finishing else .off) ∧ t.lif.startEcho = none ∧
    (t.mgt.counters.get .rxRemovalAbort).toNat =
      min 65535 ((s.mgt.counters.get .rxRemovalAbort).toNat + s.ras.contexts.length) ∧
    t.mgt.profile = s.mgt.profile ∧ t.mgt.settings = s.mgt.settings ∧ t.mgt.mask = s.mgt.mask ∧
    t.mgt.refusal = s.mgt.refusal ∧ t.trb.parser = s.trb.parser) ∧
  (∀ s : State, s.cyc.state ≠ .stopped →
    (enterStopped s).cyc.state = .stopped ∧ (enterStopped s).cyc.haltCause = s.cyc.haltCause ∧
    (enterStopped s).mgt.events.state = true) ∧
  (∀ (h : HaltCause) (s : State), s.cyc.state ≠ .halted →
    (enterHalted h s).cyc.state = .halted ∧ (enterHalted h s).cyc.haltCause = h ∧
    (enterHalted h s).mgt.events.state = true ∧ (enterHalted h s).mgt.events.halt = true) ∧
  (∀ (h : HaltCause) (s : State), s.cyc.state = .halted → enterHalted h s = s) ∧
  (∀ s t : State, ClassQueueLaw s → (t = enterStopped s ∨ (s.cyc.state ≠ .halted ∧ ∃ h, t = enterHalted h s)) →
    match s.txq.ingress with
    | .admitted cls _ => ∃ d, (s.txq.queues.get cls).getLast? = some d ∧
        t.txq.ingress = .discarding .notActive cls d.tag
    | .discarding k c g => t.txq.ingress = .discarding k c g
    | .none => t.txq.ingress = .none) ∧
  (∀ s t : State, (t = enterStopped s ∨ (s.cyc.state ≠ .halted ∧ ∃ h, t = enterHalted h s)) →
    (∃ w u : State, w.txq = s.txq ∧ w.ras = s.ras ∧ w.dlv = s.dlv ∧ w.trb = s.trb ∧
      w.mgt.settings = s.mgt.settings ∧ w.mgt.counters = s.mgt.counters ∧
      (u = rasSessionEnd (txqSessionEnd w) ∨ u = txqSessionEnd (rasSessionEnd w)) ∧
      t.txq = u.txq ∧ t.ras = u.ras ∧ t.dlv = u.dlv ∧ t.trb = u.trb ∧ t.mgt.counters = u.mgt.counters) ∧
    (s.trb.framer ≠ .idle → t.trb.framer = s.trb.framer ∧ s.dlv.notices <+: t.dlv.notices ∧
      ∀ q, s.dlv.queues.get q <+: t.dlv.queues.get q)) ∧
  (∀ s : State,
    let flushed (q : List Descriptor) : List Notice := q.filterMap (fun d =>
      match d.st with
      | .sending => some ⟨.flushed, d.cls, d.seq, d.tag, none, true, 0⟩
      | .queued => some ⟨.flushed, d.cls, d.seq, d.tag, none, false, 0⟩
      | _ => none)
    txqSessionEnd s =
      takeNotices
        (flushed s.txq.queues.c0 ++ flushed s.txq.queues.c1 ++ flushed s.txq.queues.c2 ++ flushed s.txq.queues.c3)
        { s with txq := (txqSessionEnd s).txq }) ∧
  (∀ s : State, ∃ (cs : List Context) (ix : Nat), cs.Perm s.ras.contexts ∧
    rasSessionEnd s = cs.foldl (fun u c => abortContext .removal c u) { s with freeIx := ix }) ∧
  ∀ (c : Context) (s : State), c.next ≤ c.bufs.length →
    let counted : State := countEvent .rxRemovalAbort
      { s with ras := { s.ras with contexts := s.ras.contexts.erase c } }
    abortContext .removal c s =
      if s.mgt.settings.damaged then
        handOff ⟨c.src, c.cls, c.tag, c.seq, 32 * c.next, .removal, c.bufs.take c.next⟩
          (returnBuffers (c.bufs.length - c.next) counted)
      else returnBuffers c.bufs.length counted

/-- CARRIER_DETECT (R20, R32, R11, R15): a change of CD against the listen timer, a running cold-start delay, the own
echo and the carriers remembered, those that ended within 106 microseconds before the present one began
(notes/assumptions/13.md).
LISTEN_TIMER_EXPIRY and COLD_START_DELAY_END (R20, R32, R33): 5 ms without carrier lead to STARTING, and 250
microseconds times the own number later a START with the own number and check is handed to LIF. An expiry that is not
due finds nothing (notes/assumptions/2.md). -/
def Obligations.CarrierAndColdStart : Prop :=
  ((∀ (t : Time) (s : State), exec (.carrierDetect t s.pins.cd) s = .next s) ∧
  (∀ (t : Time) (s : State), s.pins.cd = false → ¬(s.cyc.state = .starting ∧ s.cyc.coldStart ≠ .stopped) →
    exec (.carrierDetect t true) s = .next
      { s with
        pins := { s.pins with cd := true, cdSince := t },
        lif := { s.lif with
          echo := s.lif.echo.map (fun e => { e with carrierSeen := true }),
          startEcho := s.lif.startEcho.map (fun e => { e with carrierSeen := true }) },
        cyc := { s.cyc with listenTimer := if s.cyc.listenTimer = .stopped then .stopped else .held } }) ∧
  (∀ (t : Time) (s : State), s.pins.cd = false → s.cyc.state = .starting → s.cyc.coldStart ≠ .stopped →
    exec (.carrierDetect t true) s = .next
      (enterListen t
        { s with
          pins := { s.pins with cd := true, cdSince := t },
          lif := { s.lif with
            echo := s.lif.echo.map (fun e => { e with carrierSeen := true }),
            startEcho := s.lif.startEcho.map (fun e => { e with carrierSeen := true }) } })) ∧
  ∀ (t : Time) (s : State), s.pins.cd = true →
    exec (.carrierDetect t false) s = .next
      { s with
        pins := { s.pins with cd := false, cdSince := t },
        lif := { s.lif with
          carriers :=
            if s.lif.receiver = .off then []
            else (s.pins.cdSince, t) :: s.lif.carriers.filter (fun c => decide (s.pins.cdSince - us 106 ≤ c.2)) },
        cyc := { s.cyc with listenTimer := if s.cyc.listenTimer = .stopped then .stopped else .running t } }) ∧
  ((∀ (t since : Time) (s : State), s.cyc.state = .listen → s.cyc.listenTimer = .running since →
    since + us 5000 ≤ t →
    exec (.listenTimerExpiry t) s = .next
      { s with
        cyc := { s.cyc with state := .starting, listenTimer := .stopped, coldStart := .running t },
        mgt := { s.mgt with
          events := { s.mgt.events with state := true }, arisen := { s.mgt.arisen with state := true } } }) ∧
  (∀ (t : Time) (s : State), (s.cyc.state ≠ .listen ∨ ∀ since, s.cyc.listenTimer = .running since → t < since + us 5000) →
    exec (.listenTimerExpiry t) s = .next s) ∧
  (∀ (t since : Time) (s : State), s.cyc.state = .starting → s.cyc.coldStart = .running since →
    since + us (250 * (ownNumber s).val) ≤ t →
    exec (.coldStartDelayEnd t) s = .next
      { s with
        cyc := { s.cyc with coldStart := .stopped },
        lif := { s.lif with
          tx := some (.start (ownNumber s) s.mgt.profile.check),
          startEcho := some ⟨.start (ownNumber s) s.mgt.profile.check, s.pins.cd, none⟩ } }) ∧
  ∀ (t : Time) (s : State),
    (s.cyc.state ≠ .starting ∨
      ∀ since, s.cyc.coldStart = .running since → t < since + us (250 * (ownNumber s).val)) →
    exec (.coldStartDelayEnd t) s = .next s)

/-- TRANSMISSION_END of a START in STARTING (R17, R22, R33): the station is IN_STEP with the founding schedule state, and
cycle 0 starts 10 microseconds later, its layout unknown and its data phase undefined (notes/assumptions/27.md); what
starts before its gap is unslotted (notes/assumptions/14.md). The echo's result is still to come, or has been good. A
missing or failed echo leads to LISTEN with the timing cleared. An early result is notes/assumptions/11.md.
TRANSMISSION_END of the other frames (R1, R22, R70), and of a START that the end of a session has cut off from its
founding (R43): TXEN is deasserted; TablesSent is counted after a TABLE; a copy whose echo was missing or is judged, and
which no slot will judge, is forgotten (notes/assumptions/25.md); a receiver that finishes an own frame goes off once
its echo is dealt with (notes/assumptions/10.md). With no frame in transmission nothing happens
(notes/assumptions/2.md). -/
def Obligations.TransmissionEnd : Prop :=
  ((∀ (t : Time) (s : State) (st : Station) (check : Byte) (result : Option Bool),
    s.lif.tx = some (.start st check) → s.lif.startEcho = some ⟨.start st check, true, result⟩ → result ≠ some false →
    s.lif.receiver = .on → s.cyc.state = .starting →
    exec (.transmissionEnd t) s = .next
      { s with
        lif := { s.lif with
          tx := none, startEcho := if result = none then some ⟨.start st check, true, none⟩ else none },
        cyc := { s.cyc with
          state := .inStep, joinAttempt := 0, timingLock := true, lineLost := .running t, position := .gap,
          boundaryDue := true, cycleStart := some (t + us 10), annStart := some (t + us 10 + us 10),
          dataStart := none, dataEnd := none, unslottedUntil := some (t + us 10 - 500), fixedAt := some t,
          layout := .unknown, bids := BidTable.clear },
        ssu := { s.ssu with
          sched := ⟨0, (ownNumber s).val, stations.map (fun k => ⟨k == ownNumber s, 0, 0, 0, 0⟩)⟩,
          digest :=
            (Sched.mk 0 (ownNumber s).val (stations.map (fun k => ⟨k == ownNumber s, 0, 0, 0, 0⟩))).digest },
        mgt := { s.mgt with
          events := { s.mgt.events with state := true }, arisen := { s.mgt.arisen with state := true } } }) ∧
  ∀ (t : Time) (s : State) (st : Station) (check : Byte) (seen : Bool) (result : Option Bool),
    s.lif.tx = some (.start st check) → s.lif.startEcho = some ⟨.start st check, seen, result⟩ →
    (result = some false ∨ (result = none ∧ seen = false)) →
    s.lif.receiver = .on → s.cyc.state = .starting → s.cyc.leavePending = false →
    ∃ u, exec (.transmissionEnd t) s = .next u ∧ u.cyc.state = .listen ∧ u.lif.tx = none ∧ u.lif.startEcho = none ∧
      u.lif.receiver = .on ∧ u.cyc.timingLock = false ∧ u.cyc.position = .none ∧ u.cyc.lineLost = .stopped ∧
      u.cyc.listenTimer = (if s.pins.cd then .held else .running t) ∧
      u.ssu = ⟨Sched.empty, Sched.empty.digest, none⟩ ∧ u.txq = s.txq ∧ u.ras = s.ras ∧ u.dlv = s.dlv ∧
      u.trb = s.trb ∧ u.mgt.counters = s.mgt.counters) ∧
  ((∀ (t : Time) (s : State), s.lif.tx = none → exec (.transmissionEnd t) s = .next s) ∧
  ∀ (t : Time) (s : State) (f : Frame), s.lif.tx = some f →
    let mgt : Mgt :=
      if f.kind = .table then
        { s.mgt with
          counters := s.mgt.counters.set .tablesSent (saturatingSucc (s.mgt.counters.get .tablesSent)) }
      else s.mgt
    let awaited : Bool :=
      match s.lif.echo with
      | some e => e.carrierSeen && decide (e.result = none)
      | none => false
    (s.lif.receiver = .on → f.kind ≠ .start → s.cyc.position ≠ .none →
      exec (.transmissionEnd t) s = .next { s with lif := { s.lif with tx := none }, mgt := mgt }) ∧
    (s.lif.receiver = .on → (f.kind ≠ .start ∧ s.cyc.position = .none ∨ f.kind = .start ∧ s.cyc.state ≠ .starting) →
      exec (.transmissionEnd t) s = .next
        { s with lif := { s.lif with tx := none, echo := if awaited then s.lif.echo else none }, mgt := mgt }) ∧
    (s.lif.receiver = .finishing →
      exec (.transmissionEnd t) s = .next
        { s with
          lif := if awaited then { s.lif with tx := none } else ⟨.off, none, none, none, none, []⟩, mgt := mgt }))

/-- LINE_LOST_TIMER_EXPIRY (R21, R42): the timing is lost, and the station state follows; an expiry that is not due
finds nothing (notes/assumptions/2.md). The copy of an own frame is forgotten where no reception can be its echo any
more: no frame is in transmission and no carrier is present (notes/assumptions/25.md). -/
def Obligations.LineLost : Prop :=
  (∀ (t since : Time) (s : State), s.cyc.lineLost = .running since → since + us 5000 ≤ t →
    let u := forgetEcho
      { s with cyc := { s.cyc with
          timingLock := false, position := .none, boundaryDue := false, cycleStart := none, annStart := none,
          dataStart := none, dataEnd := none, unslottedUntil := none, fixedAt := none, layout := .unknown,
          lineLost := .stopped } }
    ((s.cyc.state = .listen ∨ s.cyc.state = .starting) → exec (.lineLostTimerExpiry t) s = .next u) ∧
    (s.cyc.state = .leaving → exec (.lineLostTimerExpiry t) s = .next (enterStopped u)) ∧
    ((s.cyc.state = .joining ∨ s.cyc.state = .inStep ∨ s.cyc.state = .blind ∨ s.cyc.state = .outOfStep) →
      exec (.lineLostTimerExpiry t) s = .next
        (enterListen t (countEvent .stepLosses (raiseEvent .stepLoss u))))) ∧
  (∀ (t : Time) (s : State), (∀ since, s.cyc.lineLost = .running since → t < since + us 5000) →
    exec (.lineLostTimerExpiry t) s = .next s) ∧
  ∀ s : State, forgetEcho s =
    if s.lif.tx = none ∧ s.pins.cd = false then { s with lif := { s.lif with echo := none, startEcho := none } } else s

/-! ### Laws that every command keeps -/

/-- Every change of station state sets STATE (R24, R170), and HALTED, with its cause, is left by a reset alone
(R46), from a state whose receiver is enabled as R12 has it (an invariant, StepKeepsSessionAndProfileLaws).
Event flags fall only at a completed read of EVENTS, counters only at a completed read of their own register, and
both at a reset (R170, R171, R173).
The lock of R166: the profile and the local settings change only in CONFIG, by a register write, or at power-on and
the RESET pin; the mask only by a write to its register or at those two. -/
def Obligations.EveryCommandKeeps : Prop :=
  (∀ (c : Instr) (s t : State), exec c s = .next t → isReset c = false →
    (t.cyc.state ≠ s.cyc.state → t.mgt.events.state = true) ∧
    (ReceiverLaw s → s.cyc.state = .halted → t.cyc.state = .halted ∧ t.cyc.haltCause = s.cyc.haltCause)) ∧
  (∀ (c : Instr) (s t : State), exec c s = .next t → isReset c = false →
    (c ≠ .eventsRead → ∀ e : Event, s.mgt.events.get e = true → t.mgt.events.get e = true) ∧
    ∀ k : Counter, c ≠ .counterRead k → (s.mgt.counters.get k).toNat ≤ (t.mgt.counters.get k).toNat) ∧
  (∀ (c : Instr) (s t : State), exec c s = .next t → c ≠ .powerOn → c ≠ .resetPinAssert →
    (¬(t.mgt.profile = s.mgt.profile ∧ t.mgt.settings = s.mgt.settings) →
      s.cyc.state = .config ∧ ∃ w a v, c = .registerWrite w a v ∧ isSettingAddr a.toNat = true) ∧
    (t.mgt.mask ≠ s.mgt.mask → ∃ w v, c = .registerWrite w 0x02 v))

/-- The frame of the commands of the line, of time and of the tributary port (95_what_each_step_holds): what each leaves
as it is in every block, whatever it does. TXEN (R1, R22) is asserted while a frame is in transmission, and at no other
moment, and TRANSMISSION_END drops it; the frame that a command begins is in CarrierAndColdStart, OwnBidComposed and
OwnDataSlots. -/
def Obligations.CommandFrames : Prop :=
  (∀ s : State, txenPin s = true ↔ ∃ f, s.lif.tx = some f) ∧
  ∀ (c : Instr) (s t : State), exec c s = .next t →
    let ports : Prop := t.pins = s.pins ∧ t.cleaning = s.cleaning ∧ t.breakHeld = s.breakHeld ∧
      t.mgt.profile = s.mgt.profile ∧ t.mgt.settings = s.mgt.settings ∧ t.mgt.mask = s.mgt.mask ∧
      t.mgt.refusal = s.mgt.refusal ∧ t.mgt.capture = s.mgt.capture
    match c with
    | .carrierDetect _ _ =>
      t.pins.resetPin = s.pins.resetPin ∧ t.cleaning = s.cleaning ∧ t.breakHeld = s.breakHeld ∧
        t.mgt.profile = s.mgt.profile ∧ t.mgt.settings = s.mgt.settings ∧ t.mgt.mask = s.mgt.mask ∧
        t.mgt.refusal = s.mgt.refusal ∧ t.mgt.capture = s.mgt.capture ∧ t.lif.tx = s.lif.tx ∧
        t.trb.parser = s.trb.parser ∧ t.txq.seqs = s.txq.seqs
    | .listenTimerExpiry _ =>
      ports ∧ t.lif = s.lif ∧ t.ssu = s.ssu ∧ t.alc = s.alc ∧ t.txq = s.txq ∧ t.ras = s.ras ∧ t.dlv = s.dlv ∧
        t.trb = s.trb ∧ t.mgt.counters = s.mgt.counters
    | .coldStartDelayEnd _ =>
      ports ∧ t.cyc = { s.cyc with coldStart := t.cyc.coldStart } ∧ t.lif.receiver = s.lif.receiver ∧
        t.lif.echo = s.lif.echo ∧ t.lif.carriers = s.lif.carriers ∧ t.ssu = s.ssu ∧ t.alc = s.alc ∧ t.txq = s.txq ∧
        t.ras = s.ras ∧ t.dlv = s.dlv ∧ t.trb = s.trb ∧ t.mgt = s.mgt
    | .slotReport _ | .unslottedReception _ | .cycleBoundary | .lineLostTimerExpiry _ =>
      ports ∧ t.lif.tx = s.lif.tx ∧ t.trb.parser = s.trb.parser ∧ t.txq.seqs = s.txq.seqs
    | .transmissionEnd _ =>
      ports ∧ t.lif.tx = none ∧ txenPin t = false ∧ t.trb.parser = s.trb.parser ∧ t.txq.seqs = s.txq.seqs
    | .ownBid | .tableSend =>
      ports ∧ t.cyc = s.cyc ∧ t.ssu.sched = s.ssu.sched ∧ t.ssu.digest = s.ssu.digest ∧ t.alc = s.alc ∧
        t.txq = s.txq ∧ t.ras = s.ras ∧ t.dlv = s.dlv ∧ t.trb = s.trb ∧ t.mgt = s.mgt
    | .frameRequest =>
      ports ∧ t.cyc = s.cyc ∧ t.ssu = s.ssu ∧ t.alc = s.alc ∧ t.ras = s.ras ∧ t.txq.seqs = s.txq.seqs ∧
        t.txq.ingress = s.txq.ingress ∧ t.trb.parser = s.trb.parser ∧ t.mgt.counters = s.mgt.counters
    | .staleTimerExpiry _ _ _ =>
      ports ∧ t.lif = s.lif ∧ t.cyc = s.cyc ∧ t.ssu = s.ssu ∧ t.alc = s.alc ∧ t.txq = s.txq ∧
        t.trb.parser = s.trb.parser ∧ t.mgt.events = s.mgt.events
    | .ingressWord _ _ =>
      ports ∧ t.lif = s.lif ∧ t.cyc = s.cyc ∧ t.ssu = s.ssu ∧ t.alc = s.alc ∧ t.ras = s.ras
    | .egressWordTaken =>
      ports ∧ t.lif = s.lif ∧ t.cyc = s.cyc ∧ t.ssu = s.ssu ∧ t.alc = s.alc ∧ t.txq = s.txq ∧
        t.ras.contexts = s.ras.contexts ∧ t.trb.parser = s.trb.parser ∧ t.mgt = s.mgt
    | _ => True

/-- The transmission law of R107 with R19, R22, R49, R70 and R91: a frame begins only by the command that the line's
timing gives it, a SEGMENT, EMPTY or ABORT only in a data slot that the own committed allocation grants to this
station in the frame's class, with remaining count T - 1 - i; a BID only where the position was fixed before the own
slot's window opened (R19); and for a slot only while no frame is in
transmission and no echo is still to be judged. -/
def Obligations.TransmissionLaw : Prop :=
  ∀ (c : Instr) (s t : State) (f : Frame), ClassQueueLaw s → exec c s = .next t → t.lif.tx = some f →
    s.lif.tx ≠ some f →
    (f.kind ≠ .start → s.lif.tx = none ∧ s.lif.echo = none) ∧
    match f with
    | .start st check => (∃ w, c = .coldStartDelayEnd w) ∧ st = ownNumber s ∧ check = s.mgt.profile.check
    | .bid b => c = .ownBid ∧ b.station = ownNumber s ∧ s.cyc.timingLock = true ∧
        s.cyc.position = .announce (ownNumber s).val ∧ ∃ a, s.cyc.annStart = some a ∧
        ∀ u, s.cyc.fixedAt = some u → u < a + us 6 * (ownNumber s).val - 500
    | .table b => c = .tableSend ∧ s.cyc.state = .inStep ∧ s.cyc.position = .dataFixed (some 0) ∧
        ∃ g, s.ssu.tableOut = some g ∧ b = { g with remain := b.remain }
    | .segment b => c = .frameRequest ∧ s.cyc.state = .inStep ∧ b.src = ownNumber s ∧ granted s b.cls b.remain
    | .empty b => c = .frameRequest ∧ s.cyc.state = .inStep ∧ b.src = ownNumber s ∧ granted s b.cls b.remain
    | .abort b => c = .frameRequest ∧ s.cyc.state = .inStep ∧ b.src = ownNumber s ∧ granted s b.cls b.remain

/-- EGRESS_WORD_TAKEN (R153, R161, R162): the next word, or the end of the emission with its buffers returned and a
record boundary; while EVALID is low there is nothing to take.
EVALID is high while a record is in emission, and while a BREAK is pending that no clean-up after the RESET pin holds
back, but not while the RESET pin is asserted (R161, R163, R164).
An offered egress word is held until it is taken (R153, R161): under every other command, resets apart, the same
word stays offered. -/
def Obligations.EgressWordTaken : Prop :=
  (∀ s : State, (evalidPin s = true ↔ s.pins.resetPin = false ∧
      ((∃ rec i, s.trb.framer = .emitting rec i) ∨ s.trb.framer = .breakPending ∧ s.breakHeld = false)) ∧
    (evalidPin s = true ↔ offeredWord s ≠ none)) ∧
  ((∀ s : State, evalidPin s = false → exec .egressWordTaken s = .next s) ∧
  (∀ (s : State) (rec : EgressRecord) (i : Nat), s.pins.resetPin = false → s.trb.framer = .emitting rec i →
    i + 1 < egressWordCount rec →
    ∃ t, exec .egressWordTaken s = .next t ∧ t = { s with trb := { s.trb with framer := .emitting rec (i + 1) } } ∧
      offeredWord t = some (egressWord rec (i + 1))) ∧
  (∀ (s : State) (r : DeliveredRecord) (i : Nat), s.pins.resetPin = false →
    s.trb.framer = .emitting (.delivered r) i → i + 1 = 2 + (r.len + 3) / 4 →
    exec .egressWordTaken s = .next
      (arbitrate
        { s with
          ras := { s.ras with free := s.ras.free + r.bufs.length }, trb := { s.trb with framer := .idle } })) ∧
  ∀ (s : State) (n : Notice), s.pins.resetPin = false → s.trb.framer = .emitting (.notice n) 1 →
    exec .egressWordTaken s = .next (arbitrate { s with trb := { s.trb with framer := .idle } })) ∧
  (∀ (c : Instr) (s t : State) (w : WordKind × Word), exec c s = .next t → isReset c = false → c ≠ .egressWordTaken →
    offeredWord s = some w → offeredWord t = some w)

/-! ### The own bid -/

/-- R49, whole: the own bid in the four states that bid, handed to LIF while it holds no frame, where R19 lets the station
place it, and none in the other states. -/
def Obligations.OwnBidComposed : Prop :=
  (∀ (s : State) (a : Time), s.lif.tx = none → s.lif.echo = none →
    (s.cyc.state = .joining ∨ s.cyc.state = .inStep ∨ s.cyc.state = .blind ∨ s.cyc.state = .outOfStep) →
    s.cyc.timingLock = true → s.cyc.position = .announce (ownNumber s).val → s.cyc.annStart = some a →
    (∀ u, s.cyc.fixedAt = some u → u < a + us 6 * (ownNumber s).val - 500) →
    (s.cyc.bids.record (ownNumber s).val).status = .unheard →
    let b : BidFrame :=
      { station := ownNumber s
        check := s.mgt.profile.check
        leaving := s.cyc.leavePending
        joining := !s.cyc.leavePending && decide (s.cyc.state = .joining)
        resync := !s.cyc.leavePending && decide (s.cyc.state = .blind ∨ s.cyc.state = .outOfStep)
        cycle := if s.cyc.state = .joining then 0 else s.ssu.sched.cycle
        digest := if s.cyc.state = .joining then 0 else s.ssu.digest
        demand := if s.cyc.state = .inStep ∧ s.cyc.leavePending = false then demandSnapshot s else Four.all 0 }
    exec .ownBid s = .next
      { s with lif := { s.lif with tx := some (.bid b), echo := some ⟨.bid b, s.pins.cd, none⟩ } }) ∧
  ∀ s : State,
    (s.cyc.state = .config ∨ s.cyc.state = .listen ∨ s.cyc.state = .starting ∨ s.cyc.state = .leaving ∨
      s.cyc.state = .stopped ∨ s.cyc.state = .halted) → exec .ownBid s = .next s

/-- R50, whole: the demand snapshot of each class, which changes nothing in TXQ, and demand 0 from every state but
IN_STEP. -/
def Obligations.DemandSnapshotCounts : Prop :=
  (∀ (s : State) (c : Sys2Proof.Class), ClassQueueLaw s →
    ((demandSnapshot s).get c).toNat =
      min s.mgt.profile.budget
        ((((s.txq.queues.get c).filter (fun d => d.st == .queued || d.st == .sending)).map
            (fun d => d.segments - d.next)).sum +
          (match s.txq.queues.get c with
           | d :: _ => if d.st = .aborting then 1 else 0
           | [] => 0))) ∧
  (∀ s t : State, exec .ownBid s = .next t → t.txq = s.txq) ∧
  (∀ (s t : State) (b : BidFrame), exec .ownBid s = .next t → s.lif.tx = none → t.lif.tx = some (.bid b) →
    b.demand = if s.cyc.state = .inStep ∧ s.cyc.leavePending = false then demandSnapshot s else Four.all 0)

/-! ### Slots -/

/-- The classification of a slot (R2, R8, R9, R11): Silent, Valid with its frame, or Damaged in every other case; the echo
result of an own frame, which a Damaged slot may still pass (notes/assumptions/33.md); the kinds that each part of the
cycle allows (R7), a START only where no position is held; and the field checks (R4), with the bounds of the remaining
count in a data slot and outside the numbered slots. The edges of the windows are notes/assumptions/6.md. -/
def Obligations.SlotClassification : Prop :=
  (∀ (p : Profile) (part : CyclePart) (nominal spanEnd : Time) (own : Option Frame) (line : SpanLine),
    (classifySlot p part nominal spanEnd own line = .silent ↔
      own = none ∧ line = ⟨false, [], none⟩) ∧
    (∀ (f : Frame) (r : Reception), classifySlot p part nominal spanEnd own line = .valid f r ↔
      line = ⟨false, [r], none⟩ ∧ frameOfBits r.bits = some f ∧ kindAllowed part f.kind = true ∧
      fieldsOk p part f = true ∧ nominal - 500 ≤ r.start ∧ r.start ≤ nominal + 500 ∧ r.stop < spanEnd ∧
      (own = none ∨ own = some f)) ∧
    (classifySlot p part nominal spanEnd own line = .damaged ↔
      classifySlot p part nominal spanEnd own line ≠ .silent ∧
      ∀ f r, classifySlot p part nominal spanEnd own line ≠ .valid f r) ∧
    (echoPassed p part nominal spanEnd own line = true ↔
      ∃ (f : Frame) (r : Reception), own = some f ∧ r ∈ line.heard ∧ frameOfBits r.bits = some f ∧
        kindAllowed part f.kind = true ∧ fieldsOk p part f = true ∧ nominal - 500 ≤ r.start ∧
        r.start ≤ nominal + 500 ∧ r.stop < spanEnd)) ∧
  (∀ (kind : FrameKind) (n : Nat),
    (kindAllowed (.bidSlot n) kind = true ↔ kind = .bid) ∧ (kindAllowed .tableBlock kind = true ↔ kind = .table) ∧
    (kindAllowed (.dataSlot n) kind = true ↔ kind = .segment ∨ kind = .empty ∨ kind = .abort) ∧
    kindAllowed .unslotted kind = true ∧ (kindAllowed .unslottedHeld kind = true ↔ kind ≠ .start)) ∧
  ∀ (p : Profile) (part : CyclePart),
    let inUse (k : Station) : Prop := k.val < p.n.toNat
    let remainOk (count : Byte) : Prop :=
      (∀ i, part = .dataSlot i → count.toNat + i + 1 ≤ p.b.toNat) ∧
        ((∀ i, part ≠ .dataSlot i) → count.toNat + 1 ≤ p.b.toNat)
    (∀ st check, fieldsOk p part (.start st check) = true ↔ inUse st) ∧
    (∀ f, fieldsOk p part (.bid f) = true ↔ inUse f.station ∧ ∀ k, part = .bidSlot k → f.station.val = k) ∧
    (∀ f, fieldsOk p part (.segment f) = true ↔
      inUse f.src ∧ 1 ≤ f.len.toNat ∧ f.len.toNat ≤ 1024 ∧ f.index.toNat < (f.len.toNat + 31) / 32 ∧
      (f.first = true ↔ f.index.toNat = 0) ∧ (f.last = true ↔ f.index.toNat + 1 = (f.len.toNat + 31) / 32) ∧
      remainOk f.remain) ∧
    (∀ f, fieldsOk p part (.empty f) = true ↔ inUse f.src ∧ remainOk f.remain) ∧
    (∀ f, fieldsOk p part (.abort f) = true ↔ inUse f.src ∧ remainOk f.remain) ∧
    ∀ f, fieldsOk p part (.table f) = true ↔ inUse f.src ∧ f.remain.toNat + 4 ≤ p.b.toNat

/-- SLOT_REPORT of a gap span, and of a bid slot in which this station did not transmit, Silent or Damaged (R10, R13, R37,
R48): the next slot follows, or after the last the end of the announcement phase. The report of a silent gap, which does
nothing but move the position, is notes/assumptions/3.md. The slot whose record is entered already, that of the unslotted
BID which fixed the position (R15, R47), keeps it whatever the rest of its span held (notes/assumptions/29.md). -/
def Obligations.GapAndBidSlotReports : Prop :=
  (∀ (line : SpanLine) (s : State), s.cyc.state.inactive = false → s.cyc.position = .gap → s.cyc.boundaryDue = false →
    exec (.slotReport line) s = .next
      { s with
        cyc := { s.cyc with position := .announce 0 },
        mgt := { s.mgt with counters :=
          if line.carrierAtStart = true ∨ line.carrierAtEnd ≠ none ∨ line.heard ≠ [] then
            s.mgt.counters.set .damagedFrames (saturatingSucc (s.mgt.counters.get .damagedFrames))
          else s.mgt.counters } }) ∧
  ∀ (k : Nat) (a : Time) (line : SpanLine) (s : State), s.cyc.state.inactive = false →
    s.cyc.position = .announce k → s.cyc.annStart = some a → k + 1 ≤ s.mgt.profile.lineSize →
    let ends (u : State) : State :=
      if k + 1 < s.mgt.profile.lineSize then { u with cyc := { u.cyc with position := .announce (k + 1) } }
      else endAnnouncement (a + us 6 * (s.mgt.profile.lineSize : Nat)) u
    ((s.cyc.bids.record k).status ≠ .unheard →
      exec (.slotReport line) s = .next (ends { s with lif := { s.lif with echo := none } })) ∧
    ((s.cyc.bids.record k).status = .unheard → s.lif.echo = none →
    exec (.slotReport ⟨false, [], none⟩) s = .next (ends
      { s with cyc := { s.cyc with
          bids := ⟨s.cyc.bids.records.set k ⟨.silent, false, none, false⟩, s.cyc.bids.damage⟩ } }) ∧
    (classifySlot s.mgt.profile (.bidSlot k) (a + us 6 * k) (a + us 6 * k + us 6 - 500) none line = .damaged →
      exec (.slotReport line) s = .next (ends
        { s with
          cyc := { s.cyc with
            state := if s.cyc.state = .inStep then .blind else s.cyc.state,
            bids := ⟨s.cyc.bids.records.set k ⟨.damaged, false, none, false⟩, true⟩ },
          mgt :=
            if s.cyc.state = .inStep then
              { s.mgt with
                events := { s.mgt.events with state := true }, arisen := { s.mgt.arisen with state := true },
                counters :=
                  (s.mgt.counters.set .damagedFrames (saturatingSucc (s.mgt.counters.get .damagedFrames))).set
                    .blindCycles (saturatingSucc (s.mgt.counters.get .blindCycles)) }
            else
              { s.mgt with counters :=
                  s.mgt.counters.set .damagedFrames (saturatingSucc (s.mgt.counters.get .damagedFrames)) } })))

/-- SLOT_REPORT of a bid slot with a Valid BID that this station did not transmit (R15, R21, R29, R30, R37, R48): the
cycle is refreshed, and the record entered as Valid or, where CYC's judgment fails, as Damaged; the first BID in LISTEN
is compared, and the own number heard halts the station; then the next slot follows, or after the last the end of the
announcement phase. -/
def Obligations.BidSlotHeard : Prop :=
  ∀ (k : Nat) (a : Time) (r : Reception) (f : BidFrame) (s : State),
    s.cyc.state.inactive = false → s.cyc.position = .announce k → s.cyc.annStart = some a →
    k + 1 ≤ s.mgt.profile.lineSize → (s.cyc.bids.record k).status = .unheard → s.lif.echo = none →
    classifySlot s.mgt.profile (.bidSlot k) (a + us 6 * k) (a + us 6 * k + us 6 - 500) none ⟨false, [r], none⟩ =
      .valid (.bid f) r →
    let accepted : Prop :=
      ¬(f.leaving = true ∧ f.resync = true) ∧ ¬(f.leaving = true ∧ f.joining = true) ∧
        ¬(f.resync = true ∧ f.joining = true) ∧ f.check = s.mgt.profile.check ∧
        ∀ c : Sys2Proof.Class, (f.demand.get c).toNat ≤ s.mgt.profile.budget
    let refreshed : Cyc :=
      { s.cyc with
        timingLock := true, lineLost := .running r.stop, annStart := some (r.start - us 6 * k),
        cycleStart := some (r.start - us 6 * k - us 10),
        profileChecked := decide (s.cyc.state = .listen) || s.cyc.profileChecked }
    let ends (u : State) : State :=
      if k + 1 < s.mgt.profile.lineSize then { u with cyc := { u.cyc with position := .announce (k + 1) } }
      else endAnnouncement (r.start - us 6 * k + us 6 * (s.mgt.profile.lineSize : Nat)) u
    let duplicate : Prop := k = (ownNumber s).val ∧ s.cyc.state.hearsDuplicates = true
    (accepted → ¬duplicate → (s.cyc.state = .inStep → s.cyc.bids.damage = false) →
      exec (.slotReport ⟨false, [r], none⟩) s = .next (ends
        { s with cyc := { refreshed with
            bids :=
              ⟨s.cyc.bids.records.set k
                ⟨.valid
                  ⟨f.station, f.cycle,
                    if f.joining then .joining else if f.resync then .resync else if f.leaving then .leaving else .none,
                    f.digest,
                    if f.joining || f.resync || f.leaving then Four.all 0
                    else ⟨f.demand.c0.toNat, f.demand.c1.toNat, f.demand.c2.toNat, f.demand.c3.toNat⟩⟩,
                  false, none, false⟩,
                s.cyc.bids.damage⟩ } })) ∧
    (¬accepted → ¬duplicate →
      (s.cyc.state = .listen → s.cyc.profileChecked = true ∨ f.check = s.mgt.profile.check) →
      ∃ u, exec (.slotReport ⟨false, [r], none⟩) s = .next (ends u) ∧
        u.cyc = { refreshed with
          state := if s.cyc.state = .inStep then .blind else s.cyc.state,
          bids := ⟨s.cyc.bids.records.set k ⟨.damaged, false, none, false⟩, true⟩ } ∧
        u.mgt.counters.get .damagedFrames = saturatingSucc (s.mgt.counters.get .damagedFrames) ∧
        u.mgt.counters.get .blindCycles =
          (if s.cyc.state = .inStep then saturatingSucc (s.mgt.counters.get .blindCycles)
            else s.mgt.counters.get .blindCycles) ∧
        u.mgt.profile = s.mgt.profile ∧ u.mgt.settings = s.mgt.settings ∧ u.lif = s.lif ∧ u.ssu = s.ssu ∧
        u.alc = s.alc ∧ u.txq = s.txq ∧ u.ras = s.ras ∧ u.dlv = s.dlv ∧ u.trb = s.trb) ∧
    (s.cyc.state = .listen → s.cyc.profileChecked = false → f.check ≠ s.mgt.profile.check →
      ∃ t, exec (.slotReport ⟨false, [r], none⟩) s = .next t ∧ t.cyc.state = .halted ∧
        t.cyc.haltCause = .profileMismatch ∧ t.cyc.position = .none) ∧
    (duplicate → (s.cyc.state = .listen → s.cyc.profileChecked = true ∨ f.check = s.mgt.profile.check) →
      ∃ t, exec (.slotReport ⟨false, [r], none⟩) s = .next t ∧ t.cyc.state = .halted ∧
        t.cyc.haltCause = .duplicateNumber ∧ t.cyc.position = .none)

/-- SLOT_REPORT of the own bid slot in which this station transmitted (R11, R37, R39, R44, R48): the record, the echo
result against the echo-fault count, blindness, and LEAVING after a Leaving bid; then the next slot follows, or after
the last the end of the announcement phase. An echo that passes in a slot that is Damaged for another reason counts as
passed (notes/assumptions/33.md). The order of the effects is notes/assumptions/7.md. -/
def Obligations.OwnEchoResult : Prop :=
  ∀ (k : Nat) (a : Time) (line : SpanLine) (g : BidFrame) (seen : Bool) (result : Option Bool) (s : State),
    s.cyc.state.bids = true → s.cyc.position = .announce k → s.cyc.annStart = some a →
    k + 1 ≤ s.mgt.profile.lineSize → k < 16 → s.cyc.bids.records.length = 16 →
    (s.cyc.bids.record k).status = .unheard → s.lif.echo = some ⟨.bid g, seen, result⟩ →
    let ends (start : Time) (u : State) : State :=
      if k + 1 < s.mgt.profile.lineSize then { u with cyc := { u.cyc with position := .announce (k + 1) } }
      else endAnnouncement (start + us 6 * (s.mgt.profile.lineSize : Nat)) u
    let passed : Bool :=
      echoPassed s.mgt.profile (.bidSlot k) (a + us 6 * k) (a + us 6 * k + us 6 - 500) (some (.bid g)) line
    (∀ r : Reception,
      classifySlot s.mgt.profile (.bidSlot k) (a + us 6 * k) (a + us 6 * k + us 6 - 500) (some (.bid g)) line =
        .valid (.bid g) r →
      bidAccepted s.mgt.profile g = true → (s.cyc.state = .inStep → s.cyc.bids.damage = false) →
      ∃ u, exec (.slotReport line) s = .next (ends (r.start - us 6 * k) u) ∧ u.cyc.echoFault = 0 ∧
        u.lif.echo = none ∧ u.cyc.position = .announce k ∧ u.cyc.annStart = some (r.start - us 6 * k) ∧
        u.cyc.lineLost = .running r.stop ∧ (u.cyc.bids.record k).own = true ∧
        (u.cyc.bids.record k).echo = some true ∧ (u.cyc.bids.record k).status = bidStatus s.mgt.profile g ∧
        u.cyc.state = (if g.leaving then .leaving else s.cyc.state) ∧
        u.mgt.counters = s.mgt.counters ∧ u.mgt.profile = s.mgt.profile ∧ u.mgt.settings = s.mgt.settings ∧
        u.txq = s.txq ∧ u.ras = s.ras ∧ u.ssu = s.ssu ∧ u.alc = s.alc) ∧
    (classifySlot s.mgt.profile (.bidSlot k) (a + us 6 * k) (a + us 6 * k + us 6 - 500) (some (.bid g)) line = .damaged →
      (passed = true ∨ s.cyc.echoFault < 2) →
      ∃ u, exec (.slotReport line) s = .next (ends a u) ∧
        u.cyc.echoFault = (if passed then 0 else s.cyc.echoFault + 1) ∧ u.lif.echo = none ∧
        u.cyc.position = .announce k ∧ u.cyc.annStart = some a ∧ u.cyc.lineLost = s.cyc.lineLost ∧
        (u.cyc.bids.record k).own = true ∧ (u.cyc.bids.record k).echo = some passed ∧
        (u.cyc.bids.record k).status = .damaged ∧ u.cyc.bids.damage = true ∧
        u.cyc.state =
          (if g.leaving then .leaving else if s.cyc.state = .inStep then .blind else s.cyc.state) ∧
        u.mgt.counters.get .damagedFrames = saturatingSucc (s.mgt.counters.get .damagedFrames) ∧
        u.mgt.counters.get .blindCycles =
          (if g.leaving = false ∧ s.cyc.state = .inStep then saturatingSucc (s.mgt.counters.get .blindCycles)
            else s.mgt.counters.get .blindCycles) ∧
        u.mgt.profile = s.mgt.profile ∧ u.mgt.settings = s.mgt.settings ∧ u.txq = s.txq ∧ u.ras = s.ras ∧
        u.ssu = s.ssu ∧ u.alc = s.alc) ∧
    (classifySlot s.mgt.profile (.bidSlot k) (a + us 6 * k) (a + us 6 * k + us 6 - 500) (some (.bid g)) line = .damaged →
      passed = false → s.cyc.echoFault = 2 →
      ∃ t, exec (.slotReport line) s = .next t ∧ t.cyc.state = .halted ∧ t.cyc.haltCause = .echoFault)

/-- SLOT_REPORT of a data slot or of the table block (R7, R10, R11, R13, R16, R18, R94, R118), whatever the layout and
whether or not this station transmitted in it: the span is the table block's where a table transfer is placed, or where
the layout is unknown and a reception in the window of data slot 0 carries TABLE's kind code; the slot passes, a Valid
frame fixes the end and moves the grid, and goes to RAS or SSU, where an own frame, its echo passed, has no effect. In
an open phase a Valid BID belongs to no data slot (notes/assumptions/35.md). The end of a data phase whose end is fixed
lies beyond the slot. The report of a Silent slot of an open phase is notes/assumptions/3.md, the moment at which RAS
takes a SEGMENT, the end of the span, notes/assumptions/22.md, several receptions in that window
notes/assumptions/30.md, and the end that a TABLE fixes though SSU does not load it notes/assumptions/36.md. -/
def Obligations.DataSlotReports : Prop :=
  ∀ (isOpen : Bool) (i : Nat) (d : Time) (line : SpanLine) (s : State),
    s.cyc.state.inactive = false → s.cyc.dataStart = some d →
    s.cyc.position = (if isOpen then .dataOpen i else .dataFixed (some i)) →
    (isOpen = false → ∃ e, s.cyc.dataEnd = some e ∧ d + us 16 * i < e) →
    let p : Profile := s.mgt.profile
    let own : Option Frame := s.lif.echo.map (fun e => e.frame)
    let inSlot : SpanLine :=
      { line with heard :=
          if isOpen then
            line.heard.filter (fun r => match judgeBits p .unslottedHeld r.bits with | some (.bid _) => false | _ => true)
          else line.heard }
    let tableCode (start : Time) (bits : List Bool) : Prop :=
      d - 500 ≤ start ∧ start ≤ d + 500 ∧ tableCodeRead bits = true
    let block : Prop := i = 0 ∧ (s.cyc.layout = .placed ∨
      s.cyc.layout = .unknown ∧
        ((∃ r ∈ inSlot.heard, tableCode r.start r.bits) ∨
          ∃ r, inSlot.carrierAtEnd = some r ∧ tableCode r.start r.bits))
    let holds (part : CyclePart) (length : Time) (after : Nat) (handed : Bool) : Prop :=
      let spanEnd : Time := d + us 16 * i + length - 500
      let c : SlotClass := classifySlot p part (d + us 16 * i) spanEnd own inSlot
      let passed : State :=
        { s with
          lif := { s.lif with echo := none },
          cyc := { s.cyc with position := if isOpen then .dataOpen after else .dataFixed (some after) } }
      let fixed (slot : Time) (remain : Byte) (r : Reception) : State :=
        { passed with cyc := { s.cyc with
            position := .dataFixed (some after), dataStart := some (r.start - us 16 * i),
            dataEnd := some (r.start + slot + us 16 * remain.toNat), timingLock := true,
            lineLost := .running r.stop } }
      (c = .silent → exec (.slotReport line) s = .next passed) ∧
      (c = .damaged → exec (.slotReport line) s = .next (countEvent .damagedFrames passed)) ∧
      (∀ r g, c = .valid (.segment g) r → exec (.slotReport line) s = .next
        (if handed && g.src != ownNumber s then takeSegment spanEnd g (fixed (us 16) g.remain r)
          else fixed (us 16) g.remain r)) ∧
      (∀ r g, c = .valid (.abort g) r → exec (.slotReport line) s = .next
        (if handed && g.src != ownNumber s then takeAbort g (fixed (us 16) g.remain r)
          else fixed (us 16) g.remain r)) ∧
      (∀ r g, c = .valid (.empty g) r → exec (.slotReport line) s = .next (fixed (us 16) g.remain r)) ∧
      ∀ r g, c = .valid (.table g) r → exec (.slotReport line) s = .next
        (if s.cyc.state = .inStep then fixed (us 64) g.remain r else takeTable g (fixed (us 64) g.remain r))
    (block → holds .tableBlock (us 64) 4 true) ∧
    (¬block → holds (.dataSlot i) (us 16) (i + 1) (!inTableBlock s.alc i))

/-! ### Unslotted receptions and cycle boundaries -/

/-- UNSLOTTED_RECEPTION of a BID (R12, R15, R25, R48): a new cycle begins at ANNOUNCE j with a boundary and its step (R34,
R35, R38, R41, R44), the layout unknown and the data phase undefined (notes/assumptions/27.md); the slots passed are
entered as Silent or Damaged by the carriers remembered (notes/assumptions/13.md), and the BID as the report of slot j,
Valid or Damaged; a station that is or gets IN_STEP is blinded by a Damaged one (R37). In LISTEN the first BID is
compared (R29), the one by which the station gets there among them (notes/assumptions/32.md). The own number from
another station halts it before any boundary step (R30, notes/assumptions/31.md). A BID is unslotted with no position,
in an open data phase, and, by notes/assumptions/14.md and notes/assumptions/34.md, with the slot index unknown and
where it began before the gap. -/
def Obligations.UnslottedBid : Prop :=
  ∀ (r : Reception) (f : BidFrame) (since : Time) (s : State),
    s.lif.receiver = .on → s.lif.receiverSince = some since → since ≤ r.start → s.lif.startEcho = none →
    s.cyc.state.inactive = false →
    (s.cyc.position = .none ∨ s.cyc.position = .dataFixed none ∨ (∃ i, s.cyc.position = .dataOpen i) ∨
      (s.cyc.position = .gap ∧ s.cyc.boundaryDue = true) ∨ ∃ u, s.cyc.unslottedUntil = some u ∧ r.start < u) →
    judgeBits s.mgt.profile .unslottedHeld r.bits = some (.bid f) →
    let j : Nat := f.station.val
    let a : Time := r.start - us 6 * j
    let own : Bool := decide (s.cyc.position = .none ∧ s.lif.echo.map (fun e => e.frame) = some (.bid f))
    let accepted : Prop :=
      ¬(f.leaving = true ∧ f.resync = true) ∧ ¬(f.leaving = true ∧ f.joining = true) ∧
        ¬(f.resync = true ∧ f.joining = true) ∧ f.check = s.mgt.profile.check ∧
        ∀ c : Sys2Proof.Class, (f.demand.get c).toNat ≤ s.mgt.profile.budget
    let silent (i : Nat) : Bool :=
      decide (since ≤ a + us 6 * i - 500) &&
        s.lif.carriers.all (fun c => decide (c.2 ≤ a + us 6 * i - 500) || decide (a + us 6 * i - 500 + us 6 ≤ c.1))
    let checks : Prop := s.cyc.profileChecked = true ∨ f.check = s.mgt.profile.check
    let duplicate : Prop := f.station = ownNumber s ∧ own = false ∧ s.cyc.state.hearsDuplicates = true
    let cycleBegun (t : State) : Prop :=
      t.cyc.position = .announce j ∧ t.cyc.timingLock = true ∧ t.cyc.lineLost = .running r.stop ∧
      t.cyc.annStart = some a ∧ t.cyc.cycleStart = some (a - us 10) ∧ t.cyc.dataStart = none ∧
      t.cyc.dataEnd = none ∧ t.cyc.unslottedUntil = none ∧ t.cyc.fixedAt = some r.stop ∧
      t.cyc.layout = .unknown ∧ t.alc.grants = none ∧
      t.ssu.tableOut = none ∧ t.cyc.outcome = none ∧
      t.cyc.bids.record j = ⟨bidStatus s.mgt.profile f, own, if own then some true else none, false⟩ ∧
      ((bidStatus s.mgt.profile f = .damaged) ↔ ¬accepted) ∧
      (∀ i : Nat, i < j → t.cyc.bids.record i = ⟨if silent i then .silent else .damaged, false, none, true⟩) ∧
      (∀ i : Nat, j < i → t.cyc.bids.record i = BidRecord.clear) ∧
      t.mgt.counters.get .damagedFrames =
        (if bidStatus s.mgt.profile f = .damaged then saturatingSucc (s.mgt.counters.get .damagedFrames)
          else s.mgt.counters.get .damagedFrames) ∧
      t.lif = { s.lif with echo := if s.cyc.position = .none then none else s.lif.echo } ∧
      t.txq = s.txq ∧ t.ras = s.ras ∧ t.dlv = s.dlv ∧ t.trb = s.trb
    let x : StationState := s.cyc.state
    (∀ y : StationState, ¬duplicate →
      ((x = .listen ∧ checks ∧ y = .listen) ∨ (x = .starting ∧ y = .starting) ∨ (x = .inStep ∧ y = .inStep) ∨
        (x = .blind ∧ s.cyc.pendingLoad = none ∧ y = .outOfStep) ∨
        ((x = .joining ∨ x = .blind ∨ x = .outOfStep) ∧ s.cyc.pendingLoad = some .member ∧ y = .inStep) ∨
        ((x = .blind ∨ x = .outOfStep) ∧ s.cyc.pendingLoad = some .notMember ∧ y = .joining) ∨
        (x = .joining ∧ s.cyc.pendingLoad ≠ some .member ∧ s.cyc.joinCycle + 1 < 8 ∧ y = .joining) ∨
        (x = .outOfStep ∧ s.cyc.pendingLoad = none ∧ s.cyc.outOfStep + 1 < 16 ∧ y = .outOfStep)) →
      ∃ t, exec (.unslottedReception r) s = .next t ∧ cycleBegun t ∧
        (y = .listen → t.cyc.profileChecked = true) ∧
        (x = .joining → y = .joining → t.cyc.joinCycle = s.cyc.joinCycle + 1) ∧
        (x = .outOfStep → y = .outOfStep → t.cyc.outOfStep = s.cyc.outOfStep + 1) ∧
        t.ssu.sched = s.ssu.sched ∧ t.ssu.digest = s.ssu.digest ∧
        (y = .inStep → (¬accepted ∨ ∃ i, i < j ∧ silent i = false) →
          t.cyc.state = .blind ∧
            t.mgt.counters.get .blindCycles = saturatingSucc (s.mgt.counters.get .blindCycles)) ∧
        (¬(y = .inStep ∧ (¬accepted ∨ ∃ i, i < j ∧ silent i = false)) →
          t.cyc.state = y ∧ t.mgt.counters.get .blindCycles = s.mgt.counters.get .blindCycles)) ∧
    (¬duplicate →
      ((x = .joining ∧ s.cyc.pendingLoad ≠ some .member ∧ s.cyc.joinCycle + 1 = 8 ∧ s.cyc.joinAttempt + 1 < 4) ∨
        (x = .outOfStep ∧ s.cyc.pendingLoad = none ∧ s.cyc.outOfStep + 1 = 16)) →
      ∃ t, exec (.unslottedReception r) s = .next t ∧
        (s.cyc.leavePending = true → t.cyc.state = .stopped) ∧
        (s.cyc.leavePending = false → f.check = s.mgt.profile.check →
          t.cyc.state = .listen ∧ t.cyc.profileChecked = true ∧ t.ssu.sched = Sched.empty ∧ cycleBegun t) ∧
        (s.cyc.leavePending = false → f.check ≠ s.mgt.profile.check →
          t.cyc.state = .halted ∧ t.cyc.haltCause = .profileMismatch)) ∧
    (¬duplicate → x = .joining → s.cyc.pendingLoad ≠ some .member → s.cyc.joinCycle + 1 = 8 →
      s.cyc.joinAttempt + 1 = 4 →
      ∃ t, exec (.unslottedReception r) s = .next t ∧ t.cyc.state = .halted ∧ t.cyc.haltCause = .joinFailed) ∧
    (¬duplicate → x = .leaving → ∃ t, exec (.unslottedReception r) s = .next t ∧ t.cyc.state = .stopped) ∧
    (x = .listen → ¬checks →
      ∃ t, exec (.unslottedReception r) s = .next t ∧ t.cyc.state = .halted ∧ t.cyc.haltCause = .profileMismatch) ∧
    (duplicate → (x = .listen → checks) →
      ∃ t, exec (.unslottedReception r) s = .next t ∧ t.cyc.state = .halted ∧ t.cyc.haltCause = .duplicateNumber ∧
        t.cyc.position = .none ∧ t.mgt.counters.get .stepLosses = s.mgt.counters.get .stepLosses)

/-- UNSLOTTED_RECEPTION of anything else (R7, R12, R13, R16, R17, R21, R22, R29, R30). A disabled receiver judges nothing;
one that finishes an own frame counts what is not Valid (notes/assumptions/10.md). The founder's own START: a failed echo
leads to LISTEN with the timing cleared (R33), and the result of one that ends before the transmission does waits for the
end of the transmission (notes/assumptions/11.md). With no position a peer's START fixes a cycle,
its layout unknown and its data phase undefined (notes/assumptions/27.md), is compared in LISTEN, and halts the station
where it carries the own number. With a position held a START is not Valid (notes/assumptions/14.md). A data-phase frame
fixes the end, or, begun before the gap and ended after, only restarts the line-lost timer (notes/assumptions/34.md). -/
def Obligations.UnslottedOthers : Prop :=
  (∀ (r : Reception) (s : State), s.lif.receiver = .off → exec (.unslottedReception r) s = .next s) ∧
  (∀ (r : Reception) (s : State), s.lif.receiver = .finishing →
    let judged : Option Frame := judgeBits s.mgt.profile .unslotted r.bits
    let mgt : Mgt := if judged = none then (countEvent .damagedFrames s).mgt else s.mgt
    (s.lif.tx = none → exec (.unslottedReception r) s = .next
      { s with lif := ⟨.off, none, none, none, none, []⟩, mgt := mgt }) ∧
    ∀ e, s.lif.tx ≠ none → s.lif.echo = some e → exec (.unslottedReception r) s = .next
      { s with lif := { s.lif with echo := some { e with result := some (judged == some e.frame) } }, mgt := mgt }) ∧
  (∀ (r : Reception) (since : Time) (s : State) (st : Station) (check : Byte) (seen : Bool) (result : Option Bool),
    s.lif.receiver = .on → s.lif.receiverSince = some since → since ≤ r.start →
    s.lif.startEcho = some ⟨.start st check, seen, result⟩ → (∀ k c, s.lif.tx ≠ some (.start k c)) →
    let u : State := { s with lif := { s.lif with startEcho := none } }
    (judgeBits s.mgt.profile .unslotted r.bits = some (.start st check) → s.cyc.timingLock = true →
      exec (.unslottedReception r) s = .next { u with cyc := { u.cyc with lineLost := .running r.stop } }) ∧
    (judgeBits s.mgt.profile .unslotted r.bits = none →
      exec (.unslottedReception r) s = .next (startEchoFailed r.stop (countEvent .damagedFrames u))) ∧
    ∀ f, judgeBits s.mgt.profile .unslotted r.bits = some f → f ≠ .start st check →
      exec (.unslottedReception r) s = .next (startEchoFailed r.stop u)) ∧
  (∀ (r : Reception) (since : Time) (s : State) (e : EchoWatch) (st : Station) (check : Byte),
    s.lif.receiver = .on → s.lif.receiverSince = some since → since ≤ r.start →
    s.lif.startEcho = some e → s.lif.tx = some (.start st check) →
    let judged : Option Frame := judgeBits s.mgt.profile .unslotted r.bits
    exec (.unslottedReception r) s = .next
      { s with
        lif := { s.lif with startEcho := some { e with result := some (judged == some e.frame) } },
        mgt := if judged = none then (countEvent .damagedFrames s).mgt else s.mgt }) ∧
  (∀ (r : Reception) (since : Time) (s : State),
    s.lif.receiver = .on → s.lif.receiverSince = some since → since ≤ r.start → s.lif.startEcho = none →
    s.lif.echo = none → s.cyc.position = .none →
    (judgeBits s.mgt.profile .unslotted r.bits = none →
      exec (.unslottedReception r) s = .next (countEvent .damagedFrames s)) ∧
    ∀ (st : Station) (check : Byte), judgeBits s.mgt.profile .unslotted r.bits = some (.start st check) →
      let u : State := { s with cyc := { s.cyc with
        position := .gap, boundaryDue := true, cycleStart := some (r.stop + us 10),
        annStart := some (r.stop + us 10 + us 10), dataStart := none, dataEnd := none,
        unslottedUntil := some (r.stop + us 10 - 500), fixedAt := some r.stop, layout := .unknown, timingLock := true,
        lineLost := .running r.stop, bids := BidTable.clear } }
      let checked : State := { u with cyc := { u.cyc with profileChecked := true } }
      let duplicate : Prop := st = ownNumber s ∧ s.cyc.state.hearsDuplicates = true
      (s.cyc.state = .listen → s.cyc.profileChecked = false → check ≠ s.mgt.profile.check →
        exec (.unslottedReception r) s = .next (enterHalted .profileMismatch u)) ∧
      (s.cyc.state = .listen → s.cyc.profileChecked = false → check = s.mgt.profile.check →
        exec (.unslottedReception r) s = .next
          (if st = ownNumber s then enterHalted .duplicateNumber checked else checked)) ∧
      ((s.cyc.state = .listen → s.cyc.profileChecked = true) →
        (duplicate → exec (.unslottedReception r) s = .next (enterHalted .duplicateNumber u)) ∧
        (¬duplicate → exec (.unslottedReception r) s = .next u))) ∧
  (∀ (r : Reception) (since : Time) (s : State),
    s.lif.receiver = .on → s.lif.receiverSince = some since → since ≤ r.start → s.lif.startEcho = none →
    s.cyc.position ≠ .none →
    (s.cyc.position = .dataFixed none ∨ (s.cyc.position = .gap ∧ s.cyc.boundaryDue = true) ∨
      ∃ u, s.cyc.unslottedUntil = some u ∧ r.start < u) →
    judgeBits s.mgt.profile .unslottedHeld r.bits = none →
    exec (.unslottedReception r) s = .next (countEvent .damagedFrames s)) ∧
  (∀ (p : Profile) (bits : List Bool) (st : Station) (check : Byte), frameOfBits bits = some (.start st check) →
    judgeBits p .unslottedHeld bits = none) ∧
  ∀ (r : Reception) (since : Time) (f : Frame) (s : State),
    s.lif.receiver = .on → s.lif.receiverSince = some since → since ≤ r.start → s.lif.startEcho = none →
    s.lif.echo = none → judgeBits s.mgt.profile .unslottedHeld r.bits = some f →
    let handed (u : Time → Byte → State) : Prop :=
      (∀ g, f = .segment g → exec (.unslottedReception r) s = .next (takeSegment r.stop g (u (us 16) g.remain))) ∧
      (∀ g, f = .abort g → exec (.unslottedReception r) s = .next (takeAbort g (u (us 16) g.remain))) ∧
      (∀ g, f = .empty g → exec (.unslottedReception r) s = .next (u (us 16) g.remain)) ∧
      ∀ g, f = .table g → exec (.unslottedReception r) s = .next (takeTable g (u (us 64) g.remain))
    let timed : Cyc := { s.cyc with timingLock := true, lineLost := .running r.stop }
    ((s.cyc.position = .none ∨ s.cyc.position = .dataFixed none) → handed (fun length remain =>
      { s with cyc := { timed with
          position := .dataFixed none, dataEnd := some (r.start + length + us 16 * remain.toNat),
          unslottedUntil := some (r.start + length + us 16 * remain.toNat - 500), fixedAt := some r.stop } })) ∧
    ((s.cyc.position = .gap ∨ ∃ k, s.cyc.position = .announce k) →
      (∃ u, s.cyc.unslottedUntil = some u ∧ r.start < u) → handed (fun _ _ => { s with cyc := timed }))

/-- CYCLE_BOUNDARY (R25, R47, R61, R78): at the start of a gap span the bid table, the outcome and the grant list are
cleared and eligible-last-cycle is settled, the layout unknown and the data phase undefined (notes/assumptions/27.md); a
station in LISTEN, STARTING or IN_STEP takes no further step. Where no gap span begins, CYCLE_BOUNDARY changes nothing
(notes/assumptions/2.md).
The boundary steps of JOINING, OUT_OF_STEP and LEAVING (R34, R35, R41, R44), as a CYCLE_BOUNDARY takes them. -/
def Obligations.CycleBoundary : Prop :=
  ((∀ (start : Time) (s : State),
    ((s.cyc.position = .gap ∧ s.cyc.boundaryDue = true ∧ s.cyc.cycleStart = some start) ∨
      (s.cyc.position = .dataFixed none ∧ s.cyc.dataEnd = some start) ∨
      ∃ i d, s.cyc.position = .dataFixed (some i) ∧ s.cyc.dataStart = some d ∧ s.cyc.dataEnd = some start ∧
        start ≤ d + us 16 * (i : Nat)) →
    (s.cyc.state = .listen ∨ s.cyc.state = .starting ∨ s.cyc.state = .inStep) →
    exec .cycleBoundary s = .next
      { s with
        cyc := { s.cyc with
          position := .gap, boundaryDue := false, cycleStart := some start, annStart := some (start + us 10),
          dataStart := none, dataEnd := none, layout := .unknown, bids := BidTable.clear, outcome := none,
          eligibleLast :=
            match s.cyc.outcome with
            | none => false
            | some o => o.ownEligible && o.committed },
        alc := ⟨none⟩, ssu := { s.ssu with tableOut := none } }) ∧
  ∀ s : State,
    (s.cyc.position = .none ∨ (∃ k, s.cyc.position = .announce k) ∨ (∃ i, s.cyc.position = .dataOpen i) ∨
      (s.cyc.position = .gap ∧ s.cyc.boundaryDue = false) ∨
      ∃ i d e, s.cyc.position = .dataFixed (some i) ∧ s.cyc.dataStart = some d ∧ s.cyc.dataEnd = some e ∧
        d + us 16 * (i : Nat) < e) →
    exec .cycleBoundary s = .next s) ∧
  (∀ (start : Time) (s : State), nextGap s.cyc = some start →
    ((s.cyc.state = .joining ∨ s.cyc.state = .outOfStep) → s.cyc.pendingLoad = some .member →
      ∃ t, exec .cycleBoundary s = .next t ∧ t.cyc.state = .inStep ∧ t.cyc.joinAttempt = 0 ∧ t.cyc.joinCycle = 0 ∧
        t.cyc.outOfStep = 0 ∧ t.cyc.pendingLoad = none ∧ t.ssu.sched = s.ssu.sched ∧ t.ssu.digest = s.ssu.digest) ∧
    (s.cyc.state = .outOfStep → s.cyc.pendingLoad = some .notMember →
      ∃ t, exec .cycleBoundary s = .next t ∧ t.cyc.state = .joining ∧ t.cyc.joinCycle = 0 ∧
        t.cyc.joinAttempt = s.cyc.joinAttempt ∧ t.cyc.pendingLoad = none ∧ t.ssu.sched = s.ssu.sched) ∧
    (s.cyc.state = .joining → s.cyc.pendingLoad ≠ some .member → s.cyc.joinCycle + 1 < 8 →
      ∃ t, exec .cycleBoundary s = .next t ∧ t.cyc.state = .joining ∧ t.cyc.joinCycle = s.cyc.joinCycle + 1 ∧
        t.cyc.joinAttempt = s.cyc.joinAttempt ∧ t.cyc.pendingLoad = none) ∧
    (s.cyc.state = .joining → s.cyc.pendingLoad ≠ some .member → s.cyc.joinCycle + 1 = 8 → s.cyc.joinAttempt + 1 < 4 →
      s.cyc.leavePending = false →
      ∃ t, exec .cycleBoundary s = .next t ∧ t.cyc.state = .listen ∧ t.cyc.joinAttempt = s.cyc.joinAttempt + 1 ∧
        t.cyc.joinCycle = 0 ∧ t.cyc.position = .gap ∧ t.cyc.timingLock = s.cyc.timingLock ∧
        t.ssu.sched = Sched.empty) ∧
    (s.cyc.state = .joining → s.cyc.pendingLoad ≠ some .member → s.cyc.joinCycle + 1 = 8 → s.cyc.joinAttempt + 1 < 4 →
      s.cyc.leavePending = true →
      ∃ t, exec .cycleBoundary s = .next t ∧ t.cyc.state = .stopped ∧ t.cyc.joinAttempt = s.cyc.joinAttempt + 1 ∧
        t.cyc.position = .none) ∧
    (s.cyc.state = .joining → s.cyc.pendingLoad ≠ some .member → s.cyc.joinCycle + 1 = 8 → s.cyc.joinAttempt + 1 = 4 →
      ∃ t, exec .cycleBoundary s = .next t ∧ t.cyc.state = .halted ∧ t.cyc.haltCause = .joinFailed) ∧
    (s.cyc.state = .outOfStep → s.cyc.pendingLoad = none → s.cyc.outOfStep + 1 < 16 →
      ∃ t, exec .cycleBoundary s = .next t ∧ t.cyc.state = .outOfStep ∧ t.cyc.outOfStep = s.cyc.outOfStep + 1) ∧
    (s.cyc.state = .outOfStep → s.cyc.pendingLoad = none → s.cyc.outOfStep + 1 = 16 →
      ∃ t, exec .cycleBoundary s = .next t ∧
        t.cyc.state = (if s.cyc.leavePending then .stopped else .listen) ∧
        t.cyc.joinAttempt = s.cyc.joinAttempt ∧ t.mgt.events.stepLoss = true ∧
        t.mgt.counters.get .stepLosses = saturatingSucc (s.mgt.counters.get .stepLosses) ∧
        (s.cyc.leavePending = false → t.cyc.position = .gap ∧ t.cyc.timingLock = s.cyc.timingLock)) ∧
    (s.cyc.state = .leaving → ∃ t, exec .cycleBoundary s = .next t ∧ t.cyc.state = .stopped))

/-- R38, whole: the cycle boundary after a cycle spent in BLIND. -/
def Obligations.BlindBoundary : Prop :=
  ∀ (start : Time) (s : State), nextGap s.cyc = some start → s.cyc.state = .blind →
    ∃ t, exec .cycleBoundary s = .next t ∧
      (s.cyc.pendingLoad = none → t.cyc.state = .outOfStep ∧ t.cyc.outOfStep = 0) ∧
      (s.cyc.pendingLoad = some .member → t.cyc.state = .inStep) ∧
      (s.cyc.pendingLoad = some .notMember → t.cyc.state = .joining)

/-! ### Agreement, commit and table transfer -/

/-- R56, whole: the reference digest of the candidate bids, which stand in station order. -/
def Obligations.ReferenceDigest : Prop :=
  ∀ cs : List ValidBid, cs.Pairwise (fun b c => b.station.val < c.station.val) →
    (referenceDigest cs = none ↔ cs = []) ∧
    ∀ h : Half, referenceDigest cs = some h →
      (∃ b ∈ cs, b.digest = h) ∧
      (∀ b ∈ cs, (cs.filter (fun c => c.digest == b.digest)).length ≤ (cs.filter (fun c => c.digest == h)).length) ∧
      ∀ b ∈ cs, (cs.filter (fun c => c.digest == b.digest)).length = (cs.filter (fun c => c.digest == h)).length →
        b.digest ≠ h → ∃ c ∈ cs, c.digest = h ∧ c.station.val < b.station.val

/-- The candidates, the eligible set, the table source and the placement of a table transfer (R55, R57, R58, R59), for a
bid table whose Valid records carry their own slots' numbers. -/
def Obligations.AgreementDecisions : Prop :=
  ∀ (own : Station) (p : Profile) (t : BidTable) (d : Sched), BidTableLaw p t →
    let cs := candidates t d
    let o := announcement own t d
    (∀ b : ValidBid, b ∈ cs ↔
      (t.record b.station.val).status = .valid b ∧ (d.row b.station).member = true ∧ b.flag ≠ .joining) ∧
    cs.Pairwise (fun b c => b.station.val < c.station.val) ∧
    o.reference = referenceDigest cs ∧
    (∀ st : Station, st ∈ o.eligible ↔
      ∃ b ∈ cs, b.station = st ∧ o.reference = some b.digest ∧
        ∃ lead ∈ cs, lead.digest = b.digest ∧ lead.cycle = b.cycle ∧
          ∀ c ∈ cs, c.digest = b.digest → lead.station.val ≤ c.station.val) ∧
    (o.ownEligible = true ↔ own ∈ o.eligible) ∧
    (∀ st : Station, o.source = some st ↔
      ∃ b ∈ cs, b.station = st ∧ st ∈ o.eligible ∧ b.flag = .none ∧
        ∀ c ∈ cs, c.station ∈ o.eligible → c.flag = .none → st.val ≤ c.station.val) ∧
    (o.placed = true ↔
      (∃ (st : Station) (b : ValidBid), (t.record st.val).status = .valid b ∧ (b.flag = .joining ∨ b.flag = .resync)) ∧
        o.source ≠ none) ∧
    o.committed = false

/-- The end of the announcement phase (R31, R54, R60, R61, R36, R40): who decides, what follows from own eligibility,
with the contexts of the sources it removes gone and every other kept, and JOINING from LISTEN; without a decision
nothing but the data phase (R18) follows. -/
def Obligations.EndOfAnnouncement : Prop :=
  (∀ s : State, decides s = true ↔
    (s.cyc.state = .inStep ∨ s.cyc.state = .outOfStep) ∧ s.cyc.bids.damage = false ∧
      ∀ r ∈ s.cyc.bids.records.take s.mgt.profile.lineSize,
        r.status ≠ .unheard ∧ ¬(r.entered15 = true ∧ r.status = .damaged)) ∧
  (∀ (k : Nat) (a : Time) (s : State), s.cyc.state.inactive = false → s.cyc.position = .announce k →
    s.cyc.annStart = some a → k + 1 = s.mgt.profile.lineSize → (s.cyc.bids.record k).status = .unheard →
    s.lif.echo = none →
    exec (.slotReport ⟨false, [], none⟩) s = .next
      (endAnnouncement (a + us 6 * (s.mgt.profile.lineSize : Nat))
        { s with cyc := { s.cyc with
            bids := ⟨s.cyc.bids.records.set k ⟨.silent, false, none, false⟩, s.cyc.bids.damage⟩ } })) ∧
  (∀ (t : Time) (s : State), s.cyc.state ≠ .listen → decides s = false → endAnnouncement t s = fixDataPhase t s) ∧
  (∀ (t : Time) (s : State), s.cyc.state = .listen →
    endAnnouncement t s = fixDataPhase t
      (if s.cyc.timingLock = true ∧ s.cyc.profileChecked = true ∧
          (s.cyc.bids.record (ownNumber s).val).status = .silent ∧
          allClassified s.cyc.bids s.mgt.profile.lineSize = true then
        { s with
          cyc := { s.cyc with state := .joining, listenTimer := .stopped, joinCycle := 0 },
          mgt := { s.mgt with
            events := { s.mgt.events with state := true }, arisen := { s.mgt.arisen with state := true } } }
      else s)) ∧
  ∀ (t : Time) (s : State), decides s = true →
    let o := announcement (ownNumber s) s.cyc.bids s.ssu.sched
    (o.ownEligible = false → ∃ u, endAnnouncement t s = fixDataPhase t u ∧ u.cyc.state = .outOfStep ∧
      u.cyc.outOfStep = (if s.cyc.state = .inStep then 0 else s.cyc.outOfStep) ∧ u.cyc.outcome = some o ∧
      u.ssu = s.ssu ∧ u.alc = s.alc ∧ u.ras = s.ras) ∧
    (o.ownEligible = true → ∃ u, endAnnouncement t s = fixDataPhase t u ∧ u.cyc.state = .inStep ∧
      (s.cyc.state = .outOfStep → u.cyc.outOfStep = 0 ∧ u.cyc.joinAttempt = 0) ∧
      u.cyc.outcome = some { o with committed := true } ∧ u.txq = s.txq ∧
      let accounts := settleAccounts s.mgt.profile o.placed (openAccounts o s.cyc.bids s.ssu.sched)
      let order := rotationOrder o.eligible s.ssu.sched.pointer
      u.alc.grants = some (grantListOf o.placed accounts) ∧
      u.ssu.sched = committedSched s.mgt.profile.limit s.cyc.bids accounts (nextPointer order s.ssu.sched.pointer)
        s.ssu.sched ∧
      u.ssu.digest = u.ssu.sched.digest ∧
      u.ssu.tableOut =
        (if o.placed = true ∧ o.source = some (ownNumber s) then
          some ⟨ownNumber s, s.mgt.profile.check, u.ssu.sched.serialise, u.ssu.digest, 0⟩
        else s.ssu.tableOut) ∧
      ∀ c : Context, c ∈ u.ras.contexts ↔
        c ∈ s.ras.contexts ∧ ¬((s.ssu.sched.row c.src).member = true ∧ (u.ssu.sched.row c.src).member = false))

/-- The schedule state a commit forms (R66, R67, R68, R69): the cycle number, the pointer, and each station's row by its
record, from the accounts of E. -/
def Obligations.CommitUpdates : Prop :=
  ∀ (limit pointer : Nat) (t : BidTable) (as : List Account) (d : Sched) (st : Station),
    let after := committedSched limit t as pointer d
    let row := d.row st
    let dealt : SchedRow :=
      match as.find? (fun a => a.station == st) with
      | none => row
      | some a => { row with d1 := a.deficit.c1, d2 := a.deficit.c2, d3 := a.deficit.c3 }
    after.cycle = d.cycle + 1 ∧ after.pointer = pointer ∧
    ((t.record st.val).status = .silent → row.member = true → limit ≤ row.silence + 1 →
      after.row st = SchedRow.clear) ∧
    ((t.record st.val).status = .silent → row.member = true → row.silence + 1 < limit →
      after.row st = { dealt with silence := row.silence + 1 }) ∧
    ((t.record st.val).status = .silent → row.member = false → after.row st = dealt) ∧
    ∀ b : ValidBid, (t.record st.val).status = .valid b →
      ((b.flag = .none ∨ b.flag = .resync) → row.member = true → after.row st = { dealt with silence := 0 }) ∧
      (b.flag = .joining → after.row st = ⟨true, 0, 0, 0, 0⟩) ∧
      (b.flag = .leaving → row.member = true → after.row st = SchedRow.clear) ∧
      (b.flag ≠ .joining → row.member = false → after.row st = dealt)

/-- The data phase after the last bid slot (R14, R18): its end fixed from T after a commit, at once where no grant is
possible, and open otherwise. Where the position passes at once to GAP, the data phase is undefined
(notes/assumptions/27.md). -/
def Obligations.DataPhaseFixed : Prop :=
  ∀ (t : Time) (s : State),
    let atOnce (l : Layout) : State := { s with cyc := { s.cyc with
      position := .gap, boundaryDue := true, cycleStart := some t, annStart := some (t + us 10), dataStart := none,
      dataEnd := none, layout := l } }
    let impossible : Prop := s.cyc.bids.damage = false ∧
      ∀ (st : Station) (b : ValidBid), (s.cyc.bids.record st.val).status = .valid b →
        (∀ c : Sys2Proof.Class, b.demand.get c = 0) ∧ b.flag ≠ .joining ∧ b.flag ≠ .resync
    (∀ g, s.alc.grants = some g → g.total = 0 →
      fixDataPhase t s = atOnce (if g.placed then .placed else .notPlaced)) ∧
    (∀ g, s.alc.grants = some g → g.total ≠ 0 →
      fixDataPhase t s = { s with cyc := { s.cyc with
        position := .dataFixed (some 0), dataStart := some t, dataEnd := some (t + us 16 * (g.total : Nat)),
        layout := if g.placed then .placed else .notPlaced } }) ∧
    (s.alc.grants = none → impossible → fixDataPhase t s = atOnce .notPlaced) ∧
    (s.alc.grants = none → ¬impossible →
      fixDataPhase t s = { s with cyc := { s.cyc with
        position := .dataOpen 0, dataStart := some t, dataEnd := none,
        layout :=
          match s.cyc.outcome with
          | some o => if o.placed then .placed else .notPlaced
          | none => .unknown } })

/-- A Valid TABLE at SSU (R71, R72, R73): ignored, not loaded and counted, or loaded with its removals and the pending
outcome. -/
def Obligations.TableTaken : Prop :=
  ∀ (f : TableFrame) (s : State),
    let after := Sched.ofBytes f.body
    let passes : Prop :=
      f.check = s.mgt.profile.check ∧ f.digest = crc16 f.body ∧ after.pointer ≤ 15 ∧
      (∀ st : Station,
        ((after.row st).member = true → st.val < s.mgt.profile.lineSize ∧
          (after.row st).silence < s.mgt.profile.limit ∧ (after.row st).d1 ≤ 4 * s.mgt.profile.quantum 1 ∧
          (after.row st).d2 ≤ 4 * s.mgt.profile.quantum 2 ∧ (after.row st).d3 ≤ 4 * s.mgt.profile.quantum 3) ∧
        ((after.row st).member = false → after.row st = SchedRow.clear)) ∧
      (after.row f.src).member = true
    let loads : Prop := s.cyc.state = .joining ∨ s.cyc.state = .blind ∨ s.cyc.state = .outOfStep
    (¬loads → takeTable f s = s) ∧
    (loads → ¬passes → takeTable f s = countEvent .damagedFrames s) ∧
    (loads → passes →
      let t := takeTable f s
      t.ssu.sched = after ∧ t.ssu.digest = f.digest ∧ t.ssu.tableOut = s.ssu.tableOut ∧
      t.cyc = { s.cyc with
        pendingLoad := some (if (after.row (ownNumber s)).member then .member else .notMember) } ∧
      t.mgt.counters.get .tablesLoaded = saturatingSucc (s.mgt.counters.get .tablesLoaded) ∧
      t.mgt.counters.get .damagedFrames = s.mgt.counters.get .damagedFrames ∧
      (∀ c : Context, c ∈ t.ras.contexts ↔
        c ∈ s.ras.contexts ∧ ¬((s.ssu.sched.row c.src).member = true ∧ (after.row c.src).member = false)) ∧
      t.txq = s.txq ∧ t.lif = s.lif ∧ t.alc = s.alc ∧ t.mgt.events = s.mgt.events)

/-- TABLE_SEND (R6, R19, R70): the table source sends the composed TABLE at data slot 0 of the table block with remaining
count T - 4; at any other moment nothing is sent.
FRAME_REQUEST (R6, R91, R107 to R111): in an own granted data slot the head of the entry's class queue decides the
frame, and what TXQ holds after it; in any other slot nothing is sent. While a frame is in transmission or its echo is
still to be judged, neither these nor OWN_BID send anything (R11, R22, R91, notes/assumptions/2.md). -/
def Obligations.OwnDataSlots : Prop :=
  ((∀ (s : State) (f : TableFrame) (g : GrantList), s.ssu.tableOut = some f → s.alc.grants = some g →
    s.cyc.state = .inStep → s.cyc.position = .dataFixed (some 0) → s.cyc.layout = .placed →
    s.lif.tx = none → s.lif.echo = none →
    exec .tableSend s = .next
      { s with
        ssu := { s.ssu with tableOut := none },
        lif := { s.lif with
          tx := some (.table { f with remain := BitVec.ofNat 8 (g.total - 4) }),
          echo := some ⟨.table { f with remain := BitVec.ofNat 8 (g.total - 4) }, s.pins.cd, none⟩ } }) ∧
  ∀ s : State, (s.ssu.tableOut = none ∨ s.alc.grants = none ∨ s.cyc.state ≠ .inStep ∨
      s.cyc.position ≠ .dataFixed (some 0) ∨ s.cyc.layout ≠ .placed) → exec .tableSend s = .next s) ∧
  ((∀ (s : State) (g : GrantList) (e : Grant) (i : Nat) (d x : Time),
    s.alc.grants = some g → s.cyc.state = .inStep → s.cyc.position = .dataFixed (some i) →
    s.cyc.dataStart = some d → s.cyc.dataEnd = some x → d + us 16 * i < x →
    g.entries.find? (fun n => decide (n.first ≤ i) && decide (i < n.first + n.count)) = some e →
    e.station = ownNumber s → s.lif.tx = none → s.lif.echo = none →
    let remain : Byte := BitVec.ofNat 8 (g.total - 1 - i)
    let sent (f : Frame) (q : Txq) : State :=
      { s with lif := { s.lif with tx := some f, echo := some ⟨f, s.pins.cd, none⟩ }, txq := q }
    let empty : Frame := .empty ⟨ownNumber s, e.cls, remain⟩
    (s.txq.queues.get e.cls = [] → exec .frameRequest s = .next (sent empty s.txq)) ∧
    ∀ (h : Descriptor) (rest : List Descriptor), s.txq.queues.get e.cls = h :: rest →
      let segment : Frame := .segment
        { src := ownNumber s, cls := h.cls, first := decide (h.next = 0), last := decide (h.next + 1 = h.segments),
          dest := h.dest, seq := h.seq.getD 0, tag := h.tag, len := BitVec.ofNat 11 h.len,
          index := BitVec.ofNat 5 h.next, remain := remain, payload := h.bufs.headD blankBuffer }
      (h.st = .arriving → exec .frameRequest s = .next (sent empty s.txq)) ∧
      (h.st = .aborting → exec .frameRequest s = .next
        (sent (.abort ⟨ownNumber s, e.cls, h.seq.getD 0, remain⟩)
          { s.txq with free := s.txq.free + h.bufs.length, queues := s.txq.queues.set e.cls rest })) ∧
      ((h.st = .queued ∨ h.st = .sending) → h.bufs ≠ [] → h.next + 1 ≠ h.segments → exec .frameRequest s = .next
        (sent segment
          { s.txq with
            free := s.txq.free + 1,
            queues := s.txq.queues.set e.cls
              ({ h with next := h.next + 1, bufs := h.bufs.tail, st := .sending } :: rest) })) ∧
      ((h.st = .queued ∨ h.st = .sending) → h.next + 1 = h.segments → h.notify = false →
        exec .frameRequest s = .next
          (sent segment
            { s.txq with free := s.txq.free + h.bufs.length, queues := s.txq.queues.set e.cls rest })) ∧
      ((h.st = .queued ∨ h.st = .sending) → h.next + 1 = h.segments → h.notify = true →
        ∃ t, exec .frameRequest s = .next t ∧ t.lif.tx = some segment ∧
          t.txq = { s.txq with free := s.txq.free + h.bufs.length, queues := s.txq.queues.set e.cls rest } ∧
          t.dlv = (takeNotice ⟨.sent, e.cls, h.seq, h.tag, none, false, 0⟩ s).dlv ∧
          t.trb = (takeNotice ⟨.sent, e.cls, h.seq, h.tag, none, false, 0⟩ s).trb ∧
          t.mgt = (takeNotice ⟨.sent, e.cls, h.seq, h.tag, none, false, 0⟩ s).mgt ∧
          t.cyc = s.cyc ∧ t.ras = s.ras ∧ t.ssu = s.ssu ∧ t.alc = s.alc)) ∧
  ∀ s : State,
    (s.alc.grants = none ∨ s.cyc.state ≠ .inStep ∨ (∀ i, s.cyc.position ≠ .dataFixed (some i)) ∨
      ∃ g i, s.alc.grants = some g ∧ s.cyc.position = .dataFixed (some i) ∧
        ∀ e ∈ g.entries, e.station = ownNumber s → ¬(e.first ≤ i ∧ i < e.first + e.count)) →
    exec .frameRequest s = .next s) ∧
  (∀ s : State, (s.lif.tx ≠ none ∨ s.lif.echo ≠ none) →
    exec .ownBid s = .next s ∧ exec .tableSend s = .next s ∧ exec .frameRequest s = .next s)

/-! ### The allocation -/

/-- The Express pass, the rotation order and the pointer (R80, R81, R82, R87).
The laws that R88 owns, with the numbering of R89: every grant goes to a station of E for at most its demand, the
slots with the table block are at most B, and the entries' runs follow one another without a gap; the entries are, in
rotation order and for each station in class order 0 to 3, the classes in which its account was granted slots, each with
that account's total. -/
def Obligations.AllocationLaws : Prop :=
  ((∀ (x : Nat) (a : Account) (rest : List Account),
    expressPass x (a :: rest) =
      { a with granted := a.granted.set 0 (min a.demand.c0 x) } :: expressPass (x - min a.demand.c0 x) rest) ∧
  (∀ (x : Nat) (as : List Account), ((expressPass x as).map (fun a => a.granted.c0)).sum ≤ x) ∧
  (∀ (eligible : List Station) (pointer : Nat), eligible.Pairwise (fun s t => s.val < t.val) →
    (rotationOrder eligible pointer).Perm eligible ∧
    (rotationOrder eligible pointer).Pairwise (fun s t =>
      (pointer ≤ s.val ∧ t.val < pointer) ∨
        (s.val < t.val ∧ (pointer ≤ s.val ↔ pointer ≤ t.val)))) ∧
  (∀ (st : Station) (rest : List Station) (pointer : Nat),
    nextPointer (st :: rest) pointer = (st.val + 1) % 16) ∧
  (∀ b : Nat, startBudget b true = b - 4 ∧ startBudget b false = b)) ∧
  (∀ (p : Profile) (o : Announcement) (t : BidTable) (d : Sched), 8 ≤ p.budget → BidTableLaw p t →
    o.eligible.Pairwise (fun x y => x.val < y.val) →
    let accounts := settleAccounts p o.placed (openAccounts o t d)
    let g := grantListOf o.placed accounts
    g.entries.map (fun e => (e.station, e.cls, e.count)) =
      accounts.flatMap (fun a =>
        [(a.station, (0 : Sys2Proof.Class), a.granted.c0), (a.station, 1, a.granted.c1), (a.station, 2, a.granted.c2),
          (a.station, 3, a.granted.c3)].filter (fun e => decide (0 < e.2.2))) ∧
    accounts.map (fun a => a.station) =
      (rotationOrder o.eligible d.pointer).filter (fun st =>
        match (t.record st.val).status with
        | .valid _ => true
        | _ => false) ∧
    let base := if o.placed then 4 else 0
    (∀ e ∈ g.entries, 1 ≤ e.count ∧ e.station ∈ o.eligible ∧
      ∃ b : ValidBid, (t.record e.station.val).status = .valid b ∧ e.count ≤ b.demand.get e.cls) ∧
    g.total = base + (g.entries.map (fun e => e.count)).sum ∧ g.total ≤ p.budget ∧
    g.entries.Pairwise (fun e f => ¬(e.station = f.station ∧ e.cls = f.cls)) ∧
    ∀ (pre : List Grant) (e : Grant) (post : List Grant), g.entries = pre ++ e :: post →
      e.first = base + (pre.map (fun f => f.count)).sum)

/-- R83 and R86, whole: the deficit add before the shared pass, and the deficit reset after the fill pass, of every
station in E. -/
def Obligations.DeficitAddAndReset : Prop :=
  (∀ (q : Sys2Proof.Class → Nat) (a : Account),
    (∀ c : Sys2Proof.Class, c ≠ 0 → (deficitAdd q a).deficit.get c =
      if 0 < a.demand.get c then min (a.deficit.get c + q c) (4 * q c) else a.deficit.get c) ∧
    (deficitAdd q a).station = a.station ∧ (deficitAdd q a).demand = a.demand ∧
    (deficitAdd q a).granted = a.granted ∧ (deficitAdd q a).unmet = a.unmet) ∧
  (∀ a : Account,
    (∀ c : Sys2Proof.Class, c ≠ 0 → (deficitReset a).deficit.get c =
      if a.granted.get c = a.demand.get c then 0 else a.deficit.get c) ∧
    (deficitReset a).station = a.station ∧ (deficitReset a).demand = a.demand ∧
    (deficitReset a).granted = a.granted) ∧
  (∀ (p : Profile) (placed : Bool) (as : List Account),
    let r := startBudget p.budget placed
    let e := expressPass (min p.cap r) as
    let shared := sharedPass (r - (e.map (fun a => a.granted.c0)).sum) (e.map (deficitAdd p.quantum))
    settleAccounts p placed as = (fillPass shared.2 shared.1).1.map deficitReset) ∧
  ∀ (as : List Account) (st : Station) (row : SchedRow), (∀ a ∈ as, a.station ≠ st) → dealDeficits as st row = row

/-- R84 and R85, whole: the shared pass and the fill pass at each station of the walk, classes 1, 2 and 3 in that
order. -/
def Obligations.SharedAndFillPasses : Prop :=
  (∀ (r : Nat) (a : Account) (rest : List Account),
    let g1 := min (min a.demand.c1 a.deficit.c1) r
    let g2 := min (min a.demand.c2 a.deficit.c2) (r - g1)
    let g3 := min (min a.demand.c3 a.deficit.c3) (r - g1 - g2)
    sharedPass r (a :: rest) =
      ({ a with
          deficit := ⟨a.deficit.c0, a.deficit.c1 - g1, a.deficit.c2 - g2, a.deficit.c3 - g3⟩,
          granted := ⟨a.granted.c0, g1, g2, g3⟩,
          unmet := ⟨a.unmet.c0, a.demand.c1 - g1, a.demand.c2 - g2, a.demand.c3 - g3⟩ } ::
        (sharedPass (r - g1 - g2 - g3) rest).1,
       (sharedPass (r - g1 - g2 - g3) rest).2)) ∧
  (∀ r, sharedPass r [] = ([], r)) ∧
  (∀ (r : Nat) (a : Account) (rest : List Account),
    let f1 := min a.unmet.c1 r
    let f2 := min a.unmet.c2 (r - f1)
    let f3 := min a.unmet.c3 (r - f1 - f2)
    fillPass r (a :: rest) =
      ({ a with
          granted := ⟨a.granted.c0, a.granted.c1 + f1, a.granted.c2 + f2, a.granted.c3 + f3⟩,
          unmet := ⟨a.unmet.c0, a.unmet.c1 - f1, a.unmet.c2 - f2, a.unmet.c3 - f3⟩ } ::
        (fillPass (r - f1 - f2 - f3) rest).1,
       (fillPass (r - f1 - f2 - f3) rest).2)) ∧
  (∀ r, fillPass r [] = ([], r)) ∧
  (∀ (q : Sys2Proof.Class → Nat) (r : Nat) (as : List Account),
    (∀ a ∈ as, ∀ c : Sys2Proof.Class, c ≠ 0 → a.deficit.get c ≤ 4 * q c) →
    ∀ a ∈ (sharedPass r as).1, ∀ c : Sys2Proof.Class, c ≠ 0 → a.deficit.get c ≤ 4 * q c) ∧
  (∀ as : List Account, (sharedPass 0 as).1.map (fun a => a.deficit) = as.map (fun a => a.deficit)) ∧
  ∀ as : List Account, ∀ a ∈ (sharedPass 0 as).1, ∀ c : Sys2Proof.Class, c ≠ 0 →
    a.granted.get c = 0 ∧ a.unmet.get c = a.demand.get c

/-! ### Ingress and the transmit queues -/

/-- INGRESS_WORD (R153, R154, R156, R157, R158): the parser's state and the word's kind give the next state and what is
handed to TXQ or raised; while IREADY is low, as it is with the RESET pin asserted or a clean-up outstanding, the word
is not taken. The fields of the header words and the bytes of a payload word stand where 11.2 has them, and the other
bits are not read (R176); what is read of destination All is notes/assumptions/18.md. -/
def Obligations.IngressWordTaken : Prop :=
  ((∀ s : State, ireadyPin s = true ↔ s.pins.resetPin = false ∧ s.cleaning = false) ∧
    (∀ w : Word, let h := firstHeadOf w
      h.cls.val = (w.extractLsb' 0 2).toNat ∧ h.notify = w.getLsbD 4 ∧
      (w.extractLsb' 8 2 = 0 → ∃ k, h.dest = .station k ∧ k.val = (w.extractLsb' 16 4).toNat) ∧
      (w.extractLsb' 8 2 = 1 → ∃ g, h.dest = .group g ∧ g.val = (w.extractLsb' 16 3).toNat) ∧
      (w.extractLsb' 8 2 = 2 → h.dest = .all) ∧ (w.extractLsb' 8 2 = 3 → ∃ k, h.dest = .reserved k) ∧
      headTag w = w.extractLsb' 0 8 ∧ headLength w = (w.extractLsb' 16 11).toNat ∧
      wordBytes w = [w.extractLsb' 0 8, w.extractLsb' 8 8, w.extractLsb' 16 8, w.extractLsb' 24 8]) ∧
    payloadWords 0 = 1 ∧ ∀ len : Nat, 1 ≤ len → payloadWords len = (len + 3) / 4) ∧
  (∀ (k : WordKind) (w : Word) (s : State), ireadyPin s = false → exec (.ingressWord k w) s = .next s) ∧
  ∀ (w : Word) (s : State), ireadyPin s = true →
    let goes (p : Parser) (u : State) : State := { u with trb := { u.trb with parser := p } }
    let header : Parser := .header (firstHeadOf w)
    let bad (c : Sys2Proof.Class) : State := raiseRefused .malformed c 0 s
    (s.trb.parser = .idle →
      exec (.ingressWord .head w) s = .next (goes header s) ∧ exec (.ingressWord .body w) s = .next (goes (.stray 0) s) ∧
      exec (.ingressWord .tail w) s = .next (bad 0) ∧ exec (.ingressWord .brk w) s = .next s) ∧
    (∀ h, s.trb.parser = .header h →
      exec (.ingressWord .head w) s = .next
        (goes (.payload (payloadWords (headLength w)) 0) (headerTaken h (headTag w) (headLength w) s)) ∧
      exec (.ingressWord .body w) s = .next (goes (.stray h.cls) s) ∧
      exec (.ingressWord .tail w) s = .next (goes .idle (bad h.cls)) ∧
      exec (.ingressWord .brk w) s = .next (goes .idle (raiseRefused .broken h.cls 0 s))) ∧
    (∀ e n, s.trb.parser = .payload e n →
      exec (.ingressWord .head w) s = .next (goes header (messageEnd .malformed s)) ∧
      exec (.ingressWord .body w) s = .next
        (if n + 1 < e then goes (.payload e (n + 1)) (payloadTaken w s) else goes .overrun s) ∧
      exec (.ingressWord .tail w) s = .next
        (goes .idle (if n + 1 = e then messageEnd .wellFormed (payloadTaken w s) else messageEnd .malformed s)) ∧
      exec (.ingressWord .brk w) s = .next (goes .idle (messageEnd .broken s))) ∧
    (s.trb.parser = .overrun →
      exec (.ingressWord .head w) s = .next (goes header (messageEnd .malformed s)) ∧
      exec (.ingressWord .body w) s = .next s ∧
      exec (.ingressWord .tail w) s = .next (goes .idle (messageEnd .malformed s)) ∧
      exec (.ingressWord .brk w) s = .next (goes .idle (messageEnd .broken s))) ∧
    (∀ c, s.trb.parser = .stray c →
      exec (.ingressWord .head w) s = .next (goes header (bad c)) ∧ exec (.ingressWord .body w) s = .next s ∧
      exec (.ingressWord .tail w) s = .next (goes .idle (bad c)) ∧
      exec (.ingressWord .brk w) s = .next (goes .idle (bad c))) ∧
    (s.trb.parser = .skip →
      exec (.ingressWord .head w) s = .next (goes header s) ∧ exec (.ingressWord .body w) s = .next s ∧
      exec (.ingressWord .tail w) s = .next (goes .idle s) ∧ exec (.ingressWord .brk w) s = .next (goes .idle s))

/-- A header at TXQ (R101, R102, R105): the first of five checks that fails is held as the cause; a header that passes
all five is admitted, with its buffers reserved.
Payload words and message ends at TXQ (R96, R100, R102, R103, R105): an Admitted message's bytes are written in
order; a well-formed end makes it Queued with the class's sequence; an end while Discarding is reported with the cause
held. -/
def Obligations.MessageTaken : Prop :=
  (∀ (h : FirstHead) (tag : Byte) (len : Nat) (s : State),
    let refused (k : RefusalCause) : State := { s with txq := { s.txq with ingress := .discarding k h.cls tag } }
    let inactive : Prop := s.cyc.state = .config ∨ s.cyc.state = .stopped ∨ s.cyc.state = .halted
    let full : Prop := 16 ≤ (s.txq.queues.get h.cls).length
    let badDest : Prop := (∃ k, h.dest = .reserved k) ∨
      ∃ k, h.dest = .station k ∧ (k = ownNumber s ∨ s.mgt.profile.lineSize ≤ k.val)
    let badLength : Prop := len = 0 ∨ 1024 < len
    let noRoom : Prop := s.txq.free < (len + 31) / 32
    (inactive → headerTaken h tag len s = refused .notActive) ∧
    (¬inactive → full → headerTaken h tag len s = refused .queueFull) ∧
    (¬inactive → ¬full → badDest → headerTaken h tag len s = refused .badDestination) ∧
    (¬inactive → ¬full → ¬badDest → badLength → headerTaken h tag len s = refused .malformed) ∧
    (¬inactive → ¬full → ¬badDest → ¬badLength → noRoom → headerTaken h tag len s = refused .noRoom) ∧
    (¬inactive → ¬full → ¬badDest → ¬badLength → ¬noRoom →
      ∃ d : Descriptor, headerTaken h tag len s =
          { s with txq := { s.txq with
              free := s.txq.free - (len + 31) / 32,
              queues := s.txq.queues.set h.cls (s.txq.queues.get h.cls ++ [d]),
              ingress := .admitted h.cls 0 } } ∧
        d.cls = h.cls ∧ d.dest = h.dest ∧ d.tag = tag ∧ d.len = len ∧ d.notify = h.notify ∧
        d.segments = (len + 31) / 32 ∧ d.seq = none ∧ d.next = 0 ∧ d.bufs.length = (len + 31) / 32 ∧ d.st = .arriving)) ∧
  ((∀ (e : MessageEnd) (k : RefusalCause) (c : Sys2Proof.Class) (tag : Byte) (s : State),
    s.txq.ingress = .discarding k c tag →
    messageEnd e s = raiseRefused k c tag { s with txq := { s.txq with ingress := .none } } ∧
    ∀ w, payloadTaken w s = s) ∧
  (∀ (c : Sys2Proof.Class) (n : Nat) (q : List Descriptor) (d : Descriptor) (s : State),
    s.txq.ingress = .admitted c n → s.txq.queues.get c = q ++ [d] → 1 ≤ d.len → d.bufs.length = segmentCount d.len →
    (∀ b ∈ d.bufs, b.length = 32) →
    ∃ bufs : List (List Byte),
      messageEnd .wellFormed s =
        { s with txq := { s.txq with
            queues := s.txq.queues.set c
              (q ++ [{ d with seq := some (s.txq.seqs.get c), bufs := bufs, st := .queued }]),
            seqs := s.txq.seqs.set c (s.txq.seqs.get c + 1), ingress := .none } } ∧
      bufs.length = d.bufs.length ∧
      ∀ i : Nat, i < 32 * d.bufs.length →
        bufs.flatten.getD i 0 = if i < d.len then d.bufs.flatten.getD i 0 else 0) ∧
  ∀ (c : Sys2Proof.Class) (n : Nat) (q : List Descriptor) (d : Descriptor) (w : Word) (s : State),
    s.txq.ingress = .admitted c (4 * n) → s.txq.queues.get c = q ++ [d] → 4 * n + 4 ≤ 32 * d.bufs.length →
    (∀ b ∈ d.bufs, b.length = 32) →
    ∃ bufs : List (List Byte),
      payloadTaken w s =
        { s with txq := { s.txq with
            queues := s.txq.queues.set c (q ++ [{ d with bufs := bufs }]), ingress := .admitted c (4 * n + 4) } } ∧
      bufs.length = d.bufs.length ∧ (∀ b ∈ bufs, b.length = 32) ∧
      ∀ i : Nat, bufs.flatten.getD i 0 =
        if 4 * n ≤ i ∧ i < 4 * n + 4 then (wordBytes w).getD (i - 4 * n) 0 else d.bufs.flatten.getD i 0)

/-- R104, whole: an Admitted message that ends Malformed or Broken. -/
def Obligations.BadMessageEnd : Prop :=
  ∀ (c : Sys2Proof.Class) (n : Nat) (q : List Descriptor) (d : Descriptor) (s : State),
    s.txq.ingress = .admitted c n → s.txq.queues.get c = q ++ [d] →
    let u (k : RefusalCause) : State :=
      takeNotice ⟨.refused, c, none, d.tag, some k, false, 0⟩
        { s with
          txq := { s.txq with
            free := s.txq.free + d.bufs.length, queues := s.txq.queues.set c q, ingress := .none },
          mgt := { s.mgt with counters :=
            s.mgt.counters.set .ingressRefused (saturatingSucc (s.mgt.counters.get .ingressRefused)) } }
    messageEnd .malformed s = u .malformed ∧ messageEnd .broken s = u .broken ∧
    ∀ k, (u k).txq.seqs = s.txq.seqs

/-! ### Reassembly -/

/-- A SEGMENT at RAS (R123 to R127, R132): what is ignored, what supersedes, opens, completes or extends a context, and
what ends it as a gap. A context's buffers that no segment has filled hold 32 zero bytes, which nothing ever shows
(notes/assumptions/17.md). -/
def Obligations.SegmentReceived : Prop :=
  ∀ (t : Time) (f : SegmentFrame) (s : State),
    (f.src = ownNumber s → takeSegment t f s = s) ∧
    (f.src ≠ ownNumber s → f.first = false → findContext f.src f.cls s = none → takeSegment t f s = s) ∧
    (∀ c, f.src ≠ ownNumber s → f.first = false → findContext f.src f.cls s = some c →
      ¬(f.seq = c.seq ∧ f.index.toNat = c.next ∧ f.tag = c.tag ∧ f.dest = c.dest ∧ f.len.toNat = c.len) →
      takeSegment t f s = abortContext .gap c s) ∧
    (∀ c, f.src ≠ ownNumber s → f.first = false → findContext f.src f.cls s = some c →
      f.seq = c.seq → f.index.toNat = c.next → f.tag = c.tag → f.dest = c.dest → f.len.toNat = c.len →
      let c' : Context := { c with bufs := c.bufs.set c.next f.payload, next := c.next + 1, since := t }
      (f.last = false → takeSegment t f s =
        { s with ras := { s.ras with contexts := s.ras.contexts.map (fun x => if x = c then c' else x) } }) ∧
      (f.last = true → takeSegment t f s =
        handOff ⟨c.src, c.cls, c.tag, c.seq, c.len, .complete, c'.bufs⟩
          { s with ras := { s.ras with contexts := s.ras.contexts.erase c } })) ∧
    (f.src ≠ ownNumber s → f.first = true →
      let u : State :=
        match findContext f.src f.cls s with
        | some c => abortContext .superseded c s
        | none => s
      let forUs : Prop := f.dest = .station (ownNumber s) ∨ f.dest = .all ∨
        ∃ g : Fin 8, f.dest = .group g ∧ s.mgt.settings.groups.getLsbD g.val = true
      let bufs : List (List Byte) := f.payload :: List.replicate ((f.len.toNat + 31) / 32 - 1) blankBuffer
      (¬forUs → takeSegment t f s = u) ∧
      (forUs → 32 ≤ u.ras.contexts.length → takeSegment t f s = countEvent .rxNoContext u) ∧
      (forUs → u.ras.contexts.length < 32 → u.ras.free < bufs.length →
        takeSegment t f s = countEvent .rxNoRoom u) ∧
      (forUs → u.ras.contexts.length < 32 → bufs.length ≤ u.ras.free → f.last = true →
        takeSegment t f s =
          handOff ⟨f.src, f.cls, f.tag, f.seq, f.len.toNat, .complete, bufs⟩
            { u with ras := { u.ras with free := u.ras.free - bufs.length } }) ∧
      (forUs → u.ras.contexts.length < 32 → bufs.length ≤ u.ras.free → f.last = false →
        takeSegment t f s =
          { u with ras :=
              ⟨u.ras.free - bufs.length,
                u.ras.contexts ++ [⟨f.src, f.cls, f.seq, f.tag, f.dest, f.len.toNat, 1, bufs, t⟩]⟩ }))

/-- An abort and a stale expiry (R122, R128, R129, R133): STALE_TIMER_EXPIRY aborts the context whose timer has run for
50 ms and finds nothing otherwise; an abort counts by its reason and drops the context or delivers its prefix. -/
def Obligations.ContextAborted : Prop :=
  (∀ (t : Time) (src : Station) (cls : Sys2Proof.Class) (s : State) (c : Context),
    findContext src cls s = some c → c.since + us 50000 ≤ t →
    exec (.staleTimerExpiry t src cls) s = .next (abortContext .stale c s)) ∧
  (∀ (t : Time) (src : Station) (cls : Sys2Proof.Class) (s : State),
    (∀ c, findContext src cls s = some c → t < c.since + us 50000) →
    exec (.staleTimerExpiry t src cls) s = .next s) ∧
  ∀ (why : AbortReason) (c : Context) (s : State), c.next ≤ c.bufs.length →
    let counted (k : Counter) : State :=
      { s with
        ras := { s.ras with contexts := s.ras.contexts.erase c },
        mgt := { s.mgt with counters := s.mgt.counters.set k (saturatingSucc (s.mgt.counters.get k)) } }
    let k : Counter :=
      match why with
      | .gap => .rxGapAbort
      | .superseded => .rxGapAbort
      | .stale => .rxStaleAbort
      | .removal => .rxRemovalAbort
      | .senderAbort => .rxSenderAbort
    ((why = .senderAbort ∨ s.mgt.settings.damaged = false) →
      abortContext why c s = returnBuffers c.bufs.length (counted k)) ∧
    (∀ status, (why, status) ∈ [(AbortReason.gap, DeliveryStatus.gap), (.superseded, .superseded), (.stale, .stale),
        (.removal, .removal)] → s.mgt.settings.damaged = true →
      abortContext why c s =
        handOff ⟨c.src, c.cls, c.tag, c.seq, 32 * c.next, status, c.bufs.take c.next⟩
          (returnBuffers (c.bufs.length - c.next) (counted k)))

/-- R131, whole: an ABORT at RAS. -/
def Obligations.AbortReceived : Prop :=
  ∀ (f : AbortFrame) (s : State),
    (f.src = ownNumber s → takeAbort f s = s) ∧
    (f.src ≠ ownNumber s → findContext f.src f.cls s = none → takeAbort f s = s) ∧
    (∀ c, f.src ≠ ownNumber s → findContext f.src f.cls s = some c → c.seq ≠ f.seq → takeAbort f s = s) ∧
    ∀ c, f.src ≠ ownNumber s → findContext f.src f.cls s = some c → c.seq = f.seq →
      takeAbort f s =
        { s with
          ras := ⟨s.ras.free + c.bufs.length, s.ras.contexts.erase c⟩,
          mgt := { s.mgt with counters :=
            s.mgt.counters.set .rxSenderAbort (saturatingSucc (s.mgt.counters.get .rxSenderAbort)) } }

/-! ### Delivery and egress -/

/-- Steering and the delivery queues (R137, R139, R144, R177): the first matching entry decides, the class's own queue
where none matches; a full queue drops the record. -/
def Obligations.SteeringAndOffer : Prop :=
  (∀ (e : SteerEntry) (cls : Sys2Proof.Class) (src : Station) (tag : Byte),
    e.matches cls src tag = true ↔
      e.valid = true ∧ e.action.toNat ≤ 4 ∧ (e.clsM.toNat = 4 ∨ e.clsM.toNat = cls.val) ∧
      (e.srcM.toNat = 16 ∨ e.srcM.toNat = src.val) ∧
      ∀ i : Nat, i < 8 → e.tagMask.getLsbD i = true → tag.getLsbD i = e.tagV.getLsbD i) ∧
  (∀ (r : DeliveredRecord) (s : State),
    let offer (q : Sys2Proof.Class) : State :=
      if (s.dlv.queues.get q).length < 32 then
        arbitrate { s with dlv := { s.dlv with queues := s.dlv.queues.set q (s.dlv.queues.get q ++ [r]) } }
      else
        countEvent
          (match q with
           | 0 => .queueOverflow0
           | 1 => .queueOverflow1
           | 2 => .queueOverflow2
           | 3 => .queueOverflow3)
          { s with ras := { s.ras with free := s.ras.free + r.bufs.length } }
    ((∀ e ∈ s.mgt.settings.steer, e.matches r.cls r.src r.tag = false) → handOff r s = offer r.cls) ∧
    ∀ (pre : List SteerEntry) (e : SteerEntry) (post : List SteerEntry), s.mgt.settings.steer = pre ++ e :: post →
      (∀ x ∈ pre, x.matches r.cls r.src r.tag = false) → e.matches r.cls r.src r.tag = true →
      (∀ q : Sys2Proof.Class, e.action.toNat = q.val → handOff r s = offer q) ∧
      (e.action.toNat = 4 →
        handOff r s = countEvent .steerDiscard { s with ras := { s.ras with free := s.ras.free + r.bufs.length } }))

/-- R142, whole: a notice that is raised. -/
def Obligations.NoticeTaken : Prop :=
  (∀ (n : Notice) (s : State), s.dlv.notices.length < 16 →
    takeNotice n s =
      arbitrate { s with dlv := { s.dlv with
        notices := s.dlv.notices ++ [{ n with lost := s.dlv.lost }], lost := 0 } }) ∧
  ∀ (n : Notice) (s : State), s.dlv.notices.length = 16 → s.dlv.lost ≤ 255 →
    takeNotice n s =
      { s with
        dlv := { s.dlv with lost := min 255 (s.dlv.lost + 1) },
        mgt := { s.mgt with
          events := { s.mgt.events with noticeLoss := true },
          arisen := { s.mgt.arisen with noticeLoss := true } } }

/-- The egress arbiter (R144 to R147): nothing at a record in emission or a pending BREAK; the notice queue first; then
the lowest queue in Strict mode, or the run and the search in Weighted mode. -/
def Obligations.ArbiterChooses : Prop :=
  ∀ s : State,
    let emit (d : Dlv) (r : EgressRecord) : State := { s with dlv := d, trb := { s.trb with framer := .emitting r 0 } }
    (s.trb.framer ≠ .idle → arbitrate s = s) ∧
    (s.trb.framer = .idle →
      (∀ n rest, s.dlv.notices = n :: rest → arbitrate s = emit { s.dlv with notices := rest } (.notice n)) ∧
      (s.dlv.notices = [] →
        ((∀ q, s.dlv.queues.get q = []) → arbitrate s = s) ∧
        (∀ (q : Sys2Proof.Class) (r : DeliveredRecord) (rest : List DeliveredRecord),
          s.mgt.settings.mode ≠ 1 → s.dlv.queues.get q = r :: rest →
          (∀ x : Sys2Proof.Class, x < q → s.dlv.queues.get x = []) →
          arbitrate s = emit { s.dlv with queues := s.dlv.queues.set q rest } (.delivered r)) ∧
        (∀ (r : DeliveredRecord) (rest : List DeliveredRecord),
          s.mgt.settings.mode = 1 → s.dlv.queues.get s.dlv.pointer = r :: rest →
          s.dlv.run < (s.mgt.settings.weights.get s.dlv.pointer).toNat →
          arbitrate s =
            emit { s.dlv with queues := s.dlv.queues.set s.dlv.pointer rest, run := s.dlv.run + 1 } (.delivered r)) ∧
        ∀ (k : Nat) (r : DeliveredRecord) (rest : List DeliveredRecord),
          s.mgt.settings.mode = 1 →
          (s.dlv.queues.get s.dlv.pointer = [] ∨
            (s.mgt.settings.weights.get s.dlv.pointer).toNat ≤ s.dlv.run) →
          1 ≤ k → k ≤ 4 →
          s.dlv.queues.get (s.dlv.pointer + Fin.ofNat 4 k) = r :: rest →
          (∀ j : Nat, 1 ≤ j → j < k → s.dlv.queues.get (s.dlv.pointer + Fin.ofNat 4 j) = []) →
          arbitrate s =
            emit
              { s.dlv with
                queues := s.dlv.queues.set (s.dlv.pointer + Fin.ofNat 4 k) rest,
                pointer := s.dlv.pointer + Fin.ofNat 4 k, run := 1 }
              (.delivered r)))

/-- The words of a delivered record and of a notice (R148, R149, R161, R176, 11.2): how many, of which kinds, with which
fields, every bit that no field occupies 0, and the message bytes in order; the codes of 11.2. -/
def Obligations.EgressWords : Prop :=
  ([WordKind.body, .head, .tail, .brk].map WordKind.code = [0, 1, 2, 3] ∧
    [DeliveryStatus.complete, .gap, .superseded, .stale, .removal].map DeliveryStatus.code = [0, 1, 2, 3, 4] ∧
    [NoticeKind.sent, .flushed, .refused].map NoticeKind.code = [0, 1, 2] ∧
    [none, some RefusalCause.notActive, some .queueFull, some .badDestination, some .malformed, some .noRoom,
      some .broken].map causeCode = [0, 1, 2, 3, 4, 5, 6]) ∧
  (∀ (r : DeliveredRecord), r.len ≤ 1024 →
    let h1 := (egressWord (.delivered r) 0).2
    let h2 := (egressWord (.delivered r) 1).2
    (egressWord (.delivered r) 0).1 = .head ∧ (egressWord (.delivered r) 1).1 = .head ∧
    h1.extractLsb' 27 5 = 0 ∧ h1.extractLsb' 6 2 = 0 ∧ (h1.extractLsb' 0 4).toNat = r.src.val ∧
    (h1.extractLsb' 4 2).toNat = r.cls.val ∧
    h1.extractLsb' 8 8 = r.seq ∧ h1.extractLsb' 16 8 = r.tag ∧ h1.extractLsb' 24 3 = r.status.code ∧
    h2.toNat = r.len ∧
    ∀ n : Nat, n < (r.len + 3) / 4 →
      (egressWord (.delivered r) (n + 2)).1 = (if n + 1 = (r.len + 3) / 4 then .tail else .body) ∧
      ∀ j : Nat, j < 4 → ((egressWord (.delivered r) (n + 2)).2).extractLsb' (8 * j) 8 =
        if 4 * n + j < r.len then r.bufs.flatten.getD (4 * n + j) 0 else 0) ∧
  ∀ n : Notice, n.lost ≤ 255 →
    let h := (egressWord (.notice n) 0).2
    let t := (egressWord (.notice n) 1).2
    egressWordCount (.notice n) = 2 ∧
    (egressWord (.notice n) 0).1 = .head ∧ (egressWord (.notice n) 1).1 = .tail ∧
    h.getLsbD 31 = true ∧ h.extractLsb' 24 7 = 0 ∧ h.extractLsb' 2 2 = 0 ∧ t.extractLsb' 16 16 = 0 ∧
    t.extractLsb' 3 5 = 0 ∧ h.extractLsb' 0 2 = n.kind.code ∧ (h.extractLsb' 4 2).toNat = n.cls.val ∧
    h.getLsbD 6 = n.seq.isSome ∧ h.getLsbD 7 = n.partly ∧ h.extractLsb' 8 8 = n.seq.getD 0 ∧
    h.extractLsb' 16 8 = n.tag ∧ t.extractLsb' 0 3 = causeCode n.cause ∧ (t.extractLsb' 8 8).toNat = n.lost

/-! ### Formats -/

/-- The frames of 11.1 on the line (R2, R3, R22, R175). What LIF sends is the preamble, the delimiter, the kind code, the
body with each field in its place and every other bit 0, and the check, each byte most significant bit first. Such a
carrier is read back as its frame, whatever its other bits are and with up to 8 bits after the check; and a carrier is
read as a frame only where it is of that form behind some first bits (notes/assumptions/5.md): conditions 1 to 4 of R2.
The number of destination All is notes/assumptions/18.md. The CRC starts from all ones and takes the bits of a byte most
significant first (notes/assumptions/23.md). -/
def Obligations.FrameRoundTrip : Prop :=
  let wire (code : Byte) (body : List Byte) : List Bool :=
    let check : Half := crc16 (code :: body)
    ([0xAA, 0x9B, code] ++ body ++ [check.extractLsb' 8 8, check.extractLsb' 0 8]).flatMap
      (fun b => [7, 6, 5, 4, 3, 2, 1, 0].map b.getLsbD)
  let number (hi lo : Byte) : Half := hi ++ lo
  let layout (f : Frame) (code : Byte) (body : List Byte) : Prop :=
    let b (n : Nat) : Byte := body.getD n 0
    let from' (k : Station) : Prop := ((b 0).extractLsb' 4 4).toNat = k.val
    let class' (c : Sys2Proof.Class) : Prop := ((b 0).extractLsb' 2 2).toNat = c.val
    match f with
    | .start k check => code = 0x5A ∧ body.length = 2 ∧ from' k ∧ b 1 = check
    | .bid g => code = 0x3C ∧ body.length = 10 ∧ from' g.station ∧ (b 0).getLsbD 2 = g.leaving ∧
        (b 0).getLsbD 1 = g.resync ∧ (b 0).getLsbD 0 = g.joining ∧ number (b 1) (b 2) = g.cycle ∧ b 3 = g.check ∧
        number (b 4) (b 5) = g.digest ∧ b 6 = g.demand.c0 ∧ b 7 = g.demand.c1 ∧ b 8 = g.demand.c2 ∧ b 9 = g.demand.c3
    | .segment g => code = 0xA5 ∧ body.length = 40 ∧ from' g.src ∧ class' g.cls ∧ (b 0).getLsbD 1 = g.first ∧
        (b 0).getLsbD 0 = g.last ∧
        (match g.dest with
         | .station k => (b 1).extractLsb' 6 2 = 0 ∧ ((b 1).extractLsb' 0 4).toNat = k.val
         | .group q => (b 1).extractLsb' 6 2 = 1 ∧ ((b 1).extractLsb' 0 3).toNat = q.val
         | .all => (b 1).extractLsb' 6 2 = 2
         | .reserved k => (b 1).extractLsb' 6 2 = 3 ∧ ((b 1).extractLsb' 0 4).toNat = k.val) ∧
        b 2 = g.seq ∧ b 3 = g.tag ∧ (number (b 4) (b 5)).extractLsb' 0 11 = g.len ∧
        (b 6).extractLsb' 0 5 = g.index ∧ b 7 = g.remain ∧ body.drop 8 = g.payload
    | .empty g => code = 0x66 ∧ body.length = 2 ∧ from' g.src ∧ class' g.cls ∧ b 1 = g.remain
    | .abort g => code = 0x99 ∧ body.length = 3 ∧ from' g.src ∧ class' g.cls ∧ b 1 = g.seq ∧ b 2 = g.remain
    | .table g => code = 0xC3 ∧ body.length = 74 ∧ from' g.src ∧ b 1 = g.check ∧ (body.drop 2).take 69 = g.body ∧
        number (b 71) (b 72) = g.digest ∧ b 73 = g.remain
  let othersZero (f : Frame) (body : List Byte) : Prop :=
    let b (n : Nat) : Byte := body.getD n 0
    match f with
    | .start _ _ => (b 0).extractLsb' 0 4 = 0
    | .bid _ => (b 0).getLsbD 3 = false
    | .segment g => (b 1).extractLsb' 4 2 = 0 ∧ (b 4).extractLsb' 3 5 = 0 ∧ (b 6).extractLsb' 5 3 = 0 ∧
        (match g.dest with
         | .group _ => (b 1).getLsbD 3 = false
         | .all => (b 1).extractLsb' 0 4 = 0
         | _ => True)
    | .empty _ => (b 0).extractLsb' 0 2 = 0
    | .abort _ => (b 0).extractLsb' 0 2 = 0
    | .table _ => (b 0).extractLsb' 0 4 = 0
  (∀ f : Frame,
    (∀ g, f = .segment g → g.payload.length = 32) → (∀ g, f = .table g → g.body.length = 69) →
    frameOfBits f.bits = some f ∧
    ∃ (code : Byte) (body : List Byte), f.bits = wire code body ∧ layout f code body ∧ othersZero f body) ∧
  (∀ (f : Frame) (code : Byte) (body : List Byte) (tail : List Bool),
    layout f code body → tail.length ≤ 8 → frameOfBits (wire code body ++ tail) = some f) ∧
  (∀ (bits : List Bool) (f : Frame), frameOfBits bits = some f →
    ∃ (pre tail : List Bool) (code : Byte) (body : List Byte),
      bits = pre ++ wire code body ++ tail ∧ tail.length ≤ 8 ∧ layout f code body) ∧
  crc16 [] = 0xFFFF ∧
  ∀ (bytes : List Byte) (b : Byte),
    crc16 (bytes ++ [b]) = [7, 6, 5, 4, 3, 2, 1, 0].foldl
      (fun (c : Half) i => (c <<< 1) ^^^ (if c.getLsbD 15 = b.getLsbD i then 0x0000 else 0x1021)) (crc16 bytes)

/-- The serialised schedule state is read back item for item, and every 69 bytes are the serialisation of the state they
carry (R65, 11.1); each item stands at its offset, and the digest is the CRC-16 of the 69 bytes. -/
def Obligations.ScheduleRoundTrip : Prop :=
  (∀ d : Sched, d.rows.length = 16 → d.pointer ≤ 255 →
    (∀ r ∈ d.rows, r.silence ≤ 255 ∧ r.d1 ≤ 255 ∧ r.d2 ≤ 255 ∧ r.d3 ≤ 255) →
    d.serialise.length = 69 ∧ Sched.ofBytes d.serialise = d ∧ d.digest = crc16 d.serialise ∧
    let b (n : Nat) : Byte := d.serialise.getD n 0
    let number (hi lo : Byte) : Half := hi ++ lo
    number (b 0) (b 1) = d.cycle ∧ (b 2).toNat = d.pointer ∧
    ∀ k : Station,
      (number (b 3) (b 4)).getLsbD k.val = (d.row k).member ∧ (b (5 + k.val)).toNat = (d.row k).silence ∧
      (b (21 + 3 * k.val)).toNat = (d.row k).d1 ∧ (b (21 + 3 * k.val + 1)).toNat = (d.row k).d2 ∧
      (b (21 + 3 * k.val + 2)).toNat = (d.row k).d3) ∧
  ∀ body : List Byte, body.length = 69 → (Sched.ofBytes body).serialise = body

/-! ### Laws that every step keeps -/

/-- The pool laws of R95 and R119 and the capacities of R97, R121, R138, R139 and R141. -/
def Obligations.StepKeepsPoolsAndCapacities : Prop :=
  ∀ s t : State, TxPoolLaw s → RxPoolLaw s → CapacityLaw s → step s = .next t →
    TxPoolLaw t ∧ RxPoolLaw t ∧ CapacityLaw t

/-- The receiver's enable by the station state, and what CONFIG, STOPPED and HALTED hold (R12, R14, R45, R64, R116,
R134).
Outside CONFIG the stored profile and local settings pass the JOIN validation (R166, R167). -/
def Obligations.StepKeepsSessionAndProfileLaws : Prop :=
  (∀ s t : State, ReceiverLaw s → SessionLaw s → step s = .next t → ReceiverLaw t ∧ SessionLaw t) ∧
  (∀ s t : State, ReceiverLaw s → SessionLaw s → ProfileLaw s → step s = .next t → ProfileLaw t)

/-- The bounds of the schedule state, its digest, and the bid table's records (R4, R47, R48, R64, R65). -/
def Obligations.StepKeepsScheduleLaw : Prop :=
  ∀ s t : State, ReceiverLaw s → SessionLaw s → ProfileLaw s → ScheduleLaw s → step s = .next t → ScheduleLaw t

/-- The class queues, their descriptors and the ingress record (R97 to R100, R157). -/
def Obligations.StepKeepsClassQueueLaw : Prop :=
  ∀ s t : State, ClassQueueLaw s → step s = .next t → ClassQueueLaw t

/-- The reassembly table (R121). -/
def Obligations.StepKeepsContextLaw : Prop :=
  ∀ s t : State, ReceiverLaw s → SessionLaw s → ContextLaw s → step s = .next t → ContextLaw t
end

