-- ==== Sys2Proof/Laws/State.lean ====
section
/-! SUPPORT. The small lemmas of the state: what each plain update writes and what it leaves, true by rfl. -/

namespace Sys2Proof

/-! ### Families of four, event flags and counters -/

@[simp] theorem Four.get_set_self {α : Type} (f : Four α) (c : Class) (a : α) : (f.set c a).get c = a := by
  fin_cases c <;> rfl

theorem Four.get_set_of_ne {α : Type} (f : Four α) {c d : Class} (a : α) (h : d ≠ c) :
    (f.set c a).get d = f.get d := by
  fin_cases c <;> fin_cases d <;> first | rfl | exact absurd rfl h

@[simp] theorem Four.get_all {α : Type} (a : α) (c : Class) : (Four.all a).get c = a := by
  fin_cases c <;> rfl

@[simp] theorem Machine.EventFlags.get_set_self (f : Machine.EventFlags) (e : Machine.Event) (b : Bool) : (f.set e b).get e = b := by
  cases e <;> rfl

theorem Machine.EventFlags.get_set_of_ne (f : Machine.EventFlags) {e d : Machine.Event} (b : Bool) (h : d ≠ e) :
    (f.set e b).get d = f.get d := by
  cases e <;> cases d <;> first | rfl | exact absurd rfl h

@[simp] theorem Machine.EventFlags.ofHalf_toHalf (f : Machine.EventFlags) : Machine.EventFlags.ofHalf f.toHalf = f := by
  rcases f with ⟨a, b, c, d, e, g⟩
  cases a <;> cases b <;> cases c <;> cases d <;> cases e <;> cases g <;> rfl

@[simp] theorem Machine.Counters.get_set_self (k : Machine.Counters) (c : Counter) (v : Half) : (k.set c v).get c = v := by
  cases c <;> rfl

theorem Machine.Counters.get_set_of_ne (k : Machine.Counters) {c d : Counter} (v : Half) (h : d ≠ c) :
    (k.set c v).get d = k.get d := by
  cases c <;> cases d <;> first | rfl | exact absurd rfl h

/-- A counter's register names that counter and no other (11.3). -/
@[simp] theorem Machine.counterOfAddr_counterAddr (c : Counter) : Machine.counterOfAddr (Machine.counterAddr c) = some c := by
  cases c <;> rfl

/-- An increment never lowers a counter, and 65535 stays (R173). -/
theorem Machine.le_saturatingSucc (v : Half) : v.toNat ≤ (Machine.saturatingSucc v).toNat := by
  unfold Machine.saturatingSucc
  split
  · exact Nat.le_refl _
  · rename_i h
    have hlt : v.toNat < 65535 := by
      have h1 := v.isLt
      have h2 : v.toNat ≠ 65535 := fun h3 => h (BitVec.eq_of_toNat_eq h3)
      omega
    rw [BitVec.toNat_add]
    show v.toNat ≤ (v.toNat + 1) % 65536
    omega

namespace Machine

/-! ### What the plain updates leave -/

/-- What `raiseEvent` leaves as it is. -/
@[simp] theorem raiseEvent_frame (e : Event) (s : State) :
    (raiseEvent e s).pins = s.pins ∧ (raiseEvent e s).cleaning = s.cleaning ∧
    (raiseEvent e s).breakHeld = s.breakHeld ∧ (raiseEvent e s).lif = s.lif ∧ (raiseEvent e s).cyc = s.cyc ∧
    (raiseEvent e s).ssu = s.ssu ∧ (raiseEvent e s).alc = s.alc ∧ (raiseEvent e s).txq = s.txq ∧
    (raiseEvent e s).ras = s.ras ∧ (raiseEvent e s).dlv = s.dlv ∧ (raiseEvent e s).trb = s.trb ∧
    (raiseEvent e s).mgt.profile = s.mgt.profile ∧ (raiseEvent e s).mgt.settings = s.mgt.settings ∧
    (raiseEvent e s).mgt.mask = s.mgt.mask ∧ (raiseEvent e s).mgt.refusal = s.mgt.refusal ∧
    (raiseEvent e s).mgt.counters = s.mgt.counters ∧ (raiseEvent e s).mgt.capture = s.mgt.capture ∧
    (raiseEvent e s).freeIx = s.freeIx ∧ (raiseEvent e s).pending = s.pending := by
  refine ⟨rfl, rfl, rfl, rfl, rfl, rfl, rfl, rfl, rfl, rfl, rfl, rfl, rfl, rfl, rfl, rfl, rfl, rfl, rfl⟩

/-- What `countEvent` leaves as it is. -/
@[simp] theorem countEvent_frame (c : Counter) (s : State) :
    (countEvent c s).pins = s.pins ∧ (countEvent c s).cleaning = s.cleaning ∧
    (countEvent c s).breakHeld = s.breakHeld ∧ (countEvent c s).lif = s.lif ∧ (countEvent c s).cyc = s.cyc ∧
    (countEvent c s).ssu = s.ssu ∧ (countEvent c s).alc = s.alc ∧ (countEvent c s).txq = s.txq ∧
    (countEvent c s).ras = s.ras ∧ (countEvent c s).dlv = s.dlv ∧ (countEvent c s).trb = s.trb ∧
    (countEvent c s).mgt.profile = s.mgt.profile ∧ (countEvent c s).mgt.settings = s.mgt.settings ∧
    (countEvent c s).mgt.events = s.mgt.events ∧ (countEvent c s).mgt.arisen = s.mgt.arisen ∧
    (countEvent c s).mgt.mask = s.mgt.mask ∧ (countEvent c s).mgt.refusal = s.mgt.refusal ∧
    (countEvent c s).mgt.capture = s.mgt.capture ∧ (countEvent c s).freeIx = s.freeIx ∧
    (countEvent c s).pending = s.pending := by
  refine ⟨rfl, rfl, rfl, rfl, rfl, rfl, rfl, rfl, rfl, rfl, rfl, rfl, rfl, rfl, rfl, rfl, rfl, rfl, rfl, rfl⟩

/-- What `returnBuffers` leaves as it is. -/
@[simp] theorem returnBuffers_frame (n : Nat) (s : State) :
    (returnBuffers n s).pins = s.pins ∧ (returnBuffers n s).cleaning = s.cleaning ∧
    (returnBuffers n s).breakHeld = s.breakHeld ∧ (returnBuffers n s).lif = s.lif ∧ (returnBuffers n s).cyc = s.cyc ∧
    (returnBuffers n s).ssu = s.ssu ∧ (returnBuffers n s).alc = s.alc ∧ (returnBuffers n s).txq = s.txq ∧
    (returnBuffers n s).ras.contexts = s.ras.contexts ∧ (returnBuffers n s).dlv = s.dlv ∧
    (returnBuffers n s).trb = s.trb ∧ (returnBuffers n s).mgt = s.mgt ∧ (returnBuffers n s).freeIx = s.freeIx ∧
    (returnBuffers n s).pending = s.pending := by
  refine ⟨rfl, rfl, rfl, rfl, rfl, rfl, rfl, rfl, rfl, rfl, rfl, rfl, rfl, rfl⟩

/-- What `setParser` leaves as it is. -/
@[simp] theorem setParser_frame (p : Parser) (s : State) :
    (setParser p s).pins = s.pins ∧ (setParser p s).cleaning = s.cleaning ∧ (setParser p s).breakHeld = s.breakHeld ∧
    (setParser p s).lif = s.lif ∧ (setParser p s).cyc = s.cyc ∧ (setParser p s).ssu = s.ssu ∧
    (setParser p s).alc = s.alc ∧ (setParser p s).txq = s.txq ∧ (setParser p s).ras = s.ras ∧
    (setParser p s).dlv = s.dlv ∧ (setParser p s).trb.framer = s.trb.framer ∧ (setParser p s).mgt = s.mgt ∧
    (setParser p s).freeIx = s.freeIx ∧ (setParser p s).pending = s.pending := by
  refine ⟨rfl, rfl, rfl, rfl, rfl, rfl, rfl, rfl, rfl, rfl, rfl, rfl, rfl, rfl⟩

/-- What `endRead` leaves as it is. -/
@[simp] theorem endRead_frame (s : State) :
    (endRead s).pins = s.pins ∧ (endRead s).cleaning = s.cleaning ∧ (endRead s).breakHeld = s.breakHeld ∧
    (endRead s).lif = s.lif ∧ (endRead s).cyc = s.cyc ∧ (endRead s).ssu = s.ssu ∧ (endRead s).alc = s.alc ∧
    (endRead s).txq = s.txq ∧ (endRead s).ras = s.ras ∧ (endRead s).dlv = s.dlv ∧ (endRead s).trb = s.trb ∧
    (endRead s).mgt.profile = s.mgt.profile ∧ (endRead s).mgt.settings = s.mgt.settings ∧
    (endRead s).mgt.events = s.mgt.events ∧ (endRead s).mgt.arisen = s.mgt.arisen ∧
    (endRead s).mgt.mask = s.mgt.mask ∧ (endRead s).mgt.refusal = s.mgt.refusal ∧
    (endRead s).mgt.counters = s.mgt.counters ∧ (endRead s).freeIx = s.freeIx ∧ (endRead s).pending = s.pending := by
  refine ⟨rfl, rfl, rfl, rfl, rfl, rfl, rfl, rfl, rfl, rfl, rfl, rfl, rfl, rfl, rfl, rfl, rfl, rfl, rfl, rfl⟩

/-- What `captureRead` leaves as it is. -/
@[simp] theorem captureRead_frame (a : BitVec 7) (s : State) :
    (captureRead a s).pins = s.pins ∧ (captureRead a s).cleaning = s.cleaning ∧
    (captureRead a s).breakHeld = s.breakHeld ∧ (captureRead a s).lif = s.lif ∧ (captureRead a s).cyc = s.cyc ∧
    (captureRead a s).ssu = s.ssu ∧ (captureRead a s).alc = s.alc ∧ (captureRead a s).txq = s.txq ∧
    (captureRead a s).ras = s.ras ∧ (captureRead a s).dlv = s.dlv ∧ (captureRead a s).trb = s.trb ∧
    (captureRead a s).mgt.profile = s.mgt.profile ∧ (captureRead a s).mgt.settings = s.mgt.settings ∧
    (captureRead a s).mgt.events = s.mgt.events ∧ (captureRead a s).mgt.mask = s.mgt.mask ∧
    (captureRead a s).mgt.refusal = s.mgt.refusal ∧ (captureRead a s).mgt.counters = s.mgt.counters ∧
    (captureRead a s).freeIx = s.freeIx ∧ (captureRead a s).pending = s.pending := by
  refine ⟨rfl, rfl, rfl, rfl, rfl, rfl, rfl, rfl, rfl, rfl, rfl, rfl, rfl, rfl, rfl, rfl, rfl, rfl, rfl⟩

/-- What `withSched` leaves as it is. -/
@[simp] theorem withSched_frame (d : Sched) (s : State) :
    (withSched d s).pins = s.pins ∧ (withSched d s).cleaning = s.cleaning ∧ (withSched d s).breakHeld = s.breakHeld ∧
    (withSched d s).lif = s.lif ∧ (withSched d s).cyc = s.cyc ∧ (withSched d s).ssu.tableOut = s.ssu.tableOut ∧
    (withSched d s).alc = s.alc ∧ (withSched d s).txq = s.txq ∧ (withSched d s).ras = s.ras ∧
    (withSched d s).dlv = s.dlv ∧ (withSched d s).trb = s.trb ∧ (withSched d s).mgt = s.mgt ∧
    (withSched d s).freeIx = s.freeIx ∧ (withSched d s).pending = s.pending := by
  refine ⟨rfl, rfl, rfl, rfl, rfl, rfl, rfl, rfl, rfl, rfl, rfl, rfl, rfl, rfl⟩

/-- What `clearSched` leaves as it is. -/
@[simp] theorem clearSched_frame (s : State) :
    (clearSched s).pins = s.pins ∧ (clearSched s).cleaning = s.cleaning ∧ (clearSched s).breakHeld = s.breakHeld ∧
    (clearSched s).lif = s.lif ∧ (clearSched s).cyc = s.cyc ∧ (clearSched s).alc = s.alc ∧
    (clearSched s).txq = s.txq ∧ (clearSched s).ras = s.ras ∧ (clearSched s).dlv = s.dlv ∧
    (clearSched s).trb = s.trb ∧ (clearSched s).mgt = s.mgt ∧ (clearSched s).freeIx = s.freeIx ∧
    (clearSched s).pending = s.pending := by
  refine ⟨rfl, rfl, rfl, rfl, rfl, rfl, rfl, rfl, rfl, rfl, rfl, rfl, rfl⟩

/-- What `dropGrants` leaves as it is. -/
@[simp] theorem dropGrants_frame (s : State) :
    (dropGrants s).pins = s.pins ∧ (dropGrants s).cleaning = s.cleaning ∧ (dropGrants s).breakHeld = s.breakHeld ∧
    (dropGrants s).lif = s.lif ∧ (dropGrants s).cyc = s.cyc ∧ (dropGrants s).ssu.sched = s.ssu.sched ∧
    (dropGrants s).ssu.digest = s.ssu.digest ∧ (dropGrants s).txq = s.txq ∧ (dropGrants s).ras = s.ras ∧
    (dropGrants s).dlv = s.dlv ∧ (dropGrants s).trb = s.trb ∧ (dropGrants s).mgt = s.mgt ∧
    (dropGrants s).freeIx = s.freeIx ∧ (dropGrants s).pending = s.pending := by
  refine ⟨rfl, rfl, rfl, rfl, rfl, rfl, rfl, rfl, rfl, rfl, rfl, rfl, rfl, rfl⟩

/-- What `loseTiming` leaves as it is. -/
@[simp] theorem loseTiming_frame (s : State) :
    (loseTiming s).pins = s.pins ∧ (loseTiming s).cleaning = s.cleaning ∧ (loseTiming s).breakHeld = s.breakHeld ∧
    (loseTiming s).lif = s.lif ∧ (loseTiming s).cyc.state = s.cyc.state ∧
    (loseTiming s).cyc.haltCause = s.cyc.haltCause ∧ (loseTiming s).cyc.leavePending = s.cyc.leavePending ∧
    (loseTiming s).cyc.joinAttempt = s.cyc.joinAttempt ∧ (loseTiming s).cyc.joinCycle = s.cyc.joinCycle ∧
    (loseTiming s).cyc.outOfStep = s.cyc.outOfStep ∧ (loseTiming s).cyc.echoFault = s.cyc.echoFault ∧
    (loseTiming s).cyc.profileChecked = s.cyc.profileChecked ∧ (loseTiming s).cyc.coldStart = s.cyc.coldStart ∧
    (loseTiming s).cyc.pendingLoad = s.cyc.pendingLoad ∧ (loseTiming s).cyc.listenTimer = s.cyc.listenTimer ∧
    (loseTiming s).cyc.bids = s.cyc.bids ∧ (loseTiming s).cyc.outcome = s.cyc.outcome ∧
    (loseTiming s).cyc.eligibleLast = s.cyc.eligibleLast ∧ (loseTiming s).ssu = s.ssu ∧ (loseTiming s).alc = s.alc ∧
    (loseTiming s).txq = s.txq ∧ (loseTiming s).ras = s.ras ∧ (loseTiming s).dlv = s.dlv ∧
    (loseTiming s).trb = s.trb ∧ (loseTiming s).mgt = s.mgt ∧ (loseTiming s).freeIx = s.freeIx ∧
    (loseTiming s).pending = s.pending := by
  refine ⟨rfl, rfl, rfl, rfl, rfl, rfl, rfl, rfl, rfl, rfl, rfl, rfl, rfl, rfl, rfl, rfl, rfl, rfl, rfl, rfl, rfl,
    rfl, rfl, rfl, rfl, rfl, rfl⟩

/-- What `transmitStart` leaves as it is. -/
@[simp] theorem transmitStart_frame (f : Frame) (s : State) :
    (transmitStart f s).pins = s.pins ∧ (transmitStart f s).cleaning = s.cleaning ∧
    (transmitStart f s).breakHeld = s.breakHeld ∧ (transmitStart f s).lif.receiver = s.lif.receiver ∧
    (transmitStart f s).lif.receiverSince = s.lif.receiverSince ∧ (transmitStart f s).lif.echo = s.lif.echo ∧
    (transmitStart f s).lif.carriers = s.lif.carriers ∧ (transmitStart f s).cyc = s.cyc ∧
    (transmitStart f s).ssu = s.ssu ∧ (transmitStart f s).alc = s.alc ∧ (transmitStart f s).txq = s.txq ∧
    (transmitStart f s).ras = s.ras ∧ (transmitStart f s).dlv = s.dlv ∧ (transmitStart f s).trb = s.trb ∧
    (transmitStart f s).mgt = s.mgt ∧ (transmitStart f s).freeIx = s.freeIx ∧
    (transmitStart f s).pending = s.pending := by
  refine ⟨rfl, rfl, rfl, rfl, rfl, rfl, rfl, rfl, rfl, rfl, rfl, rfl, rfl, rfl, rfl, rfl, rfl⟩

/-- What `dropSlotEcho` leaves as it is. -/
@[simp] theorem dropSlotEcho_frame (s : State) :
    (dropSlotEcho s).pins = s.pins ∧ (dropSlotEcho s).cleaning = s.cleaning ∧
    (dropSlotEcho s).breakHeld = s.breakHeld ∧ (dropSlotEcho s).lif.receiver = s.lif.receiver ∧
    (dropSlotEcho s).lif.receiverSince = s.lif.receiverSince ∧ (dropSlotEcho s).lif.tx = s.lif.tx ∧
    (dropSlotEcho s).lif.startEcho = s.lif.startEcho ∧ (dropSlotEcho s).lif.carriers = s.lif.carriers ∧
    (dropSlotEcho s).cyc = s.cyc ∧ (dropSlotEcho s).ssu = s.ssu ∧ (dropSlotEcho s).alc = s.alc ∧
    (dropSlotEcho s).txq = s.txq ∧ (dropSlotEcho s).ras = s.ras ∧ (dropSlotEcho s).dlv = s.dlv ∧
    (dropSlotEcho s).trb = s.trb ∧ (dropSlotEcho s).mgt = s.mgt ∧ (dropSlotEcho s).freeIx = s.freeIx ∧
    (dropSlotEcho s).pending = s.pending := by
  refine ⟨rfl, rfl, rfl, rfl, rfl, rfl, rfl, rfl, rfl, rfl, rfl, rfl, rfl, rfl, rfl, rfl, rfl, rfl⟩

/-- What `fixUnknownSlots` leaves as it is. -/
@[simp] theorem fixUnknownSlots_frame (e : Time) (x : Option Time) (s : State) :
    (fixUnknownSlots e x s).pins = s.pins ∧ (fixUnknownSlots e x s).cleaning = s.cleaning ∧
    (fixUnknownSlots e x s).breakHeld = s.breakHeld ∧ (fixUnknownSlots e x s).lif = s.lif ∧
    (fixUnknownSlots e x s).cyc.state = s.cyc.state ∧ (fixUnknownSlots e x s).cyc.haltCause = s.cyc.haltCause ∧
    (fixUnknownSlots e x s).cyc.leavePending = s.cyc.leavePending ∧
    (fixUnknownSlots e x s).cyc.joinAttempt = s.cyc.joinAttempt ∧
    (fixUnknownSlots e x s).cyc.joinCycle = s.cyc.joinCycle ∧
    (fixUnknownSlots e x s).cyc.outOfStep = s.cyc.outOfStep ∧
    (fixUnknownSlots e x s).cyc.echoFault = s.cyc.echoFault ∧
    (fixUnknownSlots e x s).cyc.profileChecked = s.cyc.profileChecked ∧
    (fixUnknownSlots e x s).cyc.coldStart = s.cyc.coldStart ∧
    (fixUnknownSlots e x s).cyc.pendingLoad = s.cyc.pendingLoad ∧
    (fixUnknownSlots e x s).cyc.timingLock = s.cyc.timingLock ∧
    (fixUnknownSlots e x s).cyc.boundaryDue = s.cyc.boundaryDue ∧
    (fixUnknownSlots e x s).cyc.cycleStart = s.cyc.cycleStart ∧
    (fixUnknownSlots e x s).cyc.annStart = s.cyc.annStart ∧ (fixUnknownSlots e x s).cyc.dataStart = s.cyc.dataStart ∧
    (fixUnknownSlots e x s).cyc.layout = s.cyc.layout ∧ (fixUnknownSlots e x s).cyc.listenTimer = s.cyc.listenTimer ∧
    (fixUnknownSlots e x s).cyc.lineLost = s.cyc.lineLost ∧ (fixUnknownSlots e x s).cyc.bids = s.cyc.bids ∧
    (fixUnknownSlots e x s).cyc.outcome = s.cyc.outcome ∧
    (fixUnknownSlots e x s).cyc.eligibleLast = s.cyc.eligibleLast ∧ (fixUnknownSlots e x s).ssu = s.ssu ∧
    (fixUnknownSlots e x s).alc = s.alc ∧ (fixUnknownSlots e x s).txq = s.txq ∧ (fixUnknownSlots e x s).ras = s.ras ∧
    (fixUnknownSlots e x s).dlv = s.dlv ∧ (fixUnknownSlots e x s).trb = s.trb ∧ (fixUnknownSlots e x s).mgt = s.mgt ∧
    (fixUnknownSlots e x s).freeIx = s.freeIx ∧ (fixUnknownSlots e x s).pending = s.pending := by
  refine ⟨rfl, rfl, rfl, rfl, rfl, rfl, rfl, rfl, rfl, rfl, rfl, rfl, rfl, rfl, rfl, rfl, rfl, rfl, rfl, rfl, rfl,
    rfl, rfl, rfl, rfl, rfl, rfl, rfl, rfl, rfl, rfl, rfl, rfl, rfl⟩

/-- What `transmit` leaves as it is. -/
@[simp] theorem transmit_frame (f : Frame) (s : State) :
    (transmit f s).pins = s.pins ∧ (transmit f s).cleaning = s.cleaning ∧ (transmit f s).breakHeld = s.breakHeld ∧
    (transmit f s).lif.receiver = s.lif.receiver ∧ (transmit f s).lif.receiverSince = s.lif.receiverSince ∧
    (transmit f s).lif.startEcho = s.lif.startEcho ∧ (transmit f s).lif.carriers = s.lif.carriers ∧
    (transmit f s).cyc = s.cyc ∧ (transmit f s).ssu = s.ssu ∧ (transmit f s).alc = s.alc ∧
    (transmit f s).txq = s.txq ∧ (transmit f s).ras = s.ras ∧ (transmit f s).dlv = s.dlv ∧
    (transmit f s).trb = s.trb ∧ (transmit f s).mgt = s.mgt ∧ (transmit f s).freeIx = s.freeIx ∧
    (transmit f s).pending = s.pending := by
  refine ⟨rfl, rfl, rfl, rfl, rfl, rfl, rfl, rfl, rfl, rfl, rfl, rfl, rfl, rfl, rfl, rfl, rfl⟩

/-- What `restartLineLost` leaves as it is. -/
@[simp] theorem restartLineLost_frame (e : Time) (s : State) :
    (restartLineLost e s).pins = s.pins ∧ (restartLineLost e s).cleaning = s.cleaning ∧
    (restartLineLost e s).breakHeld = s.breakHeld ∧ (restartLineLost e s).lif = s.lif ∧
    (restartLineLost e s).cyc.state = s.cyc.state ∧ (restartLineLost e s).cyc.haltCause = s.cyc.haltCause ∧
    (restartLineLost e s).cyc.leavePending = s.cyc.leavePending ∧
    (restartLineLost e s).cyc.joinAttempt = s.cyc.joinAttempt ∧
    (restartLineLost e s).cyc.joinCycle = s.cyc.joinCycle ∧ (restartLineLost e s).cyc.outOfStep = s.cyc.outOfStep ∧
    (restartLineLost e s).cyc.echoFault = s.cyc.echoFault ∧
    (restartLineLost e s).cyc.profileChecked = s.cyc.profileChecked ∧
    (restartLineLost e s).cyc.coldStart = s.cyc.coldStart ∧
    (restartLineLost e s).cyc.pendingLoad = s.cyc.pendingLoad ∧ (restartLineLost e s).cyc.position = s.cyc.position ∧
    (restartLineLost e s).cyc.boundaryDue = s.cyc.boundaryDue ∧
    (restartLineLost e s).cyc.cycleStart = s.cyc.cycleStart ∧ (restartLineLost e s).cyc.annStart = s.cyc.annStart ∧
    (restartLineLost e s).cyc.dataStart = s.cyc.dataStart ∧ (restartLineLost e s).cyc.dataEnd = s.cyc.dataEnd ∧
    (restartLineLost e s).cyc.unslottedUntil = s.cyc.unslottedUntil ∧
    (restartLineLost e s).cyc.fixedAt = s.cyc.fixedAt ∧ (restartLineLost e s).cyc.layout = s.cyc.layout ∧
    (restartLineLost e s).cyc.listenTimer = s.cyc.listenTimer ∧ (restartLineLost e s).cyc.bids = s.cyc.bids ∧
    (restartLineLost e s).cyc.outcome = s.cyc.outcome ∧ (restartLineLost e s).cyc.eligibleLast = s.cyc.eligibleLast ∧
    (restartLineLost e s).ssu = s.ssu ∧ (restartLineLost e s).alc = s.alc ∧ (restartLineLost e s).txq = s.txq ∧
    (restartLineLost e s).ras = s.ras ∧ (restartLineLost e s).dlv = s.dlv ∧ (restartLineLost e s).trb = s.trb ∧
    (restartLineLost e s).mgt = s.mgt ∧ (restartLineLost e s).freeIx = s.freeIx ∧
    (restartLineLost e s).pending = s.pending := by
  refine ⟨rfl, rfl, rfl, rfl, rfl, rfl, rfl, rfl, rfl, rfl, rfl, rfl, rfl, rfl, rfl, rfl, rfl, rfl, rfl, rfl, rfl,
    rfl, rfl, rfl, rfl, rfl, rfl, rfl, rfl, rfl, rfl, rfl, rfl, rfl, rfl, rfl⟩

/-- What `enterRecord` leaves as it is. -/
@[simp] theorem enterRecord_frame (k : Nat) (r : BidRecord) (s : State) :
    (enterRecord k r s).pins = s.pins ∧ (enterRecord k r s).cleaning = s.cleaning ∧
    (enterRecord k r s).breakHeld = s.breakHeld ∧ (enterRecord k r s).lif = s.lif ∧
    (enterRecord k r s).cyc.state = s.cyc.state ∧ (enterRecord k r s).cyc.haltCause = s.cyc.haltCause ∧
    (enterRecord k r s).cyc.leavePending = s.cyc.leavePending ∧
    (enterRecord k r s).cyc.joinAttempt = s.cyc.joinAttempt ∧ (enterRecord k r s).cyc.joinCycle = s.cyc.joinCycle ∧
    (enterRecord k r s).cyc.outOfStep = s.cyc.outOfStep ∧ (enterRecord k r s).cyc.echoFault = s.cyc.echoFault ∧
    (enterRecord k r s).cyc.profileChecked = s.cyc.profileChecked ∧
    (enterRecord k r s).cyc.coldStart = s.cyc.coldStart ∧ (enterRecord k r s).cyc.pendingLoad = s.cyc.pendingLoad ∧
    (enterRecord k r s).cyc.timingLock = s.cyc.timingLock ∧ (enterRecord k r s).cyc.position = s.cyc.position ∧
    (enterRecord k r s).cyc.boundaryDue = s.cyc.boundaryDue ∧ (enterRecord k r s).cyc.cycleStart = s.cyc.cycleStart ∧
    (enterRecord k r s).cyc.annStart = s.cyc.annStart ∧ (enterRecord k r s).cyc.dataStart = s.cyc.dataStart ∧
    (enterRecord k r s).cyc.dataEnd = s.cyc.dataEnd ∧ (enterRecord k r s).cyc.unslottedUntil = s.cyc.unslottedUntil ∧
    (enterRecord k r s).cyc.fixedAt = s.cyc.fixedAt ∧ (enterRecord k r s).cyc.layout = s.cyc.layout ∧
    (enterRecord k r s).cyc.listenTimer = s.cyc.listenTimer ∧ (enterRecord k r s).cyc.lineLost = s.cyc.lineLost ∧
    (enterRecord k r s).cyc.outcome = s.cyc.outcome ∧ (enterRecord k r s).cyc.eligibleLast = s.cyc.eligibleLast ∧
    (enterRecord k r s).ssu = s.ssu ∧ (enterRecord k r s).alc = s.alc ∧ (enterRecord k r s).txq = s.txq ∧
    (enterRecord k r s).ras = s.ras ∧ (enterRecord k r s).dlv = s.dlv ∧ (enterRecord k r s).trb = s.trb ∧
    (enterRecord k r s).mgt = s.mgt ∧ (enterRecord k r s).freeIx = s.freeIx ∧
    (enterRecord k r s).pending = s.pending := by
  refine ⟨rfl, rfl, rfl, rfl, rfl, rfl, rfl, rfl, rfl, rfl, rfl, rfl, rfl, rfl, rfl, rfl, rfl, rfl, rfl, rfl, rfl,
    rfl, rfl, rfl, rfl, rfl, rfl, rfl, rfl, rfl, rfl, rfl, rfl, rfl, rfl, rfl, rfl⟩

/-- What `finishMessage` leaves as it is. -/
@[simp] theorem finishMessage_frame (c : Class) (s : State) :
    (finishMessage c s).pins = s.pins ∧ (finishMessage c s).cleaning = s.cleaning ∧
    (finishMessage c s).breakHeld = s.breakHeld ∧ (finishMessage c s).lif = s.lif ∧ (finishMessage c s).cyc = s.cyc ∧
    (finishMessage c s).ssu = s.ssu ∧ (finishMessage c s).alc = s.alc ∧ (finishMessage c s).txq.free = s.txq.free ∧
    (finishMessage c s).ras = s.ras ∧ (finishMessage c s).dlv = s.dlv ∧ (finishMessage c s).trb = s.trb ∧
    (finishMessage c s).mgt = s.mgt ∧ (finishMessage c s).freeIx = s.freeIx ∧
    (finishMessage c s).pending = s.pending := by
  refine ⟨rfl, rfl, rfl, rfl, rfl, rfl, rfl, rfl, rfl, rfl, rfl, rfl, rfl, rfl⟩

/-- What `gapAt` leaves as it is. -/
@[simp] theorem gapAt_frame (t : Time) (l : Layout) (s : State) :
    (gapAt t l s).pins = s.pins ∧ (gapAt t l s).cleaning = s.cleaning ∧ (gapAt t l s).breakHeld = s.breakHeld ∧
    (gapAt t l s).lif = s.lif ∧ (gapAt t l s).cyc.state = s.cyc.state ∧
    (gapAt t l s).cyc.haltCause = s.cyc.haltCause ∧ (gapAt t l s).cyc.leavePending = s.cyc.leavePending ∧
    (gapAt t l s).cyc.joinAttempt = s.cyc.joinAttempt ∧ (gapAt t l s).cyc.joinCycle = s.cyc.joinCycle ∧
    (gapAt t l s).cyc.outOfStep = s.cyc.outOfStep ∧ (gapAt t l s).cyc.echoFault = s.cyc.echoFault ∧
    (gapAt t l s).cyc.profileChecked = s.cyc.profileChecked ∧ (gapAt t l s).cyc.coldStart = s.cyc.coldStart ∧
    (gapAt t l s).cyc.pendingLoad = s.cyc.pendingLoad ∧ (gapAt t l s).cyc.timingLock = s.cyc.timingLock ∧
    (gapAt t l s).cyc.unslottedUntil = s.cyc.unslottedUntil ∧ (gapAt t l s).cyc.fixedAt = s.cyc.fixedAt ∧
    (gapAt t l s).cyc.listenTimer = s.cyc.listenTimer ∧ (gapAt t l s).cyc.lineLost = s.cyc.lineLost ∧
    (gapAt t l s).cyc.bids = s.cyc.bids ∧ (gapAt t l s).cyc.outcome = s.cyc.outcome ∧
    (gapAt t l s).cyc.eligibleLast = s.cyc.eligibleLast ∧ (gapAt t l s).ssu = s.ssu ∧ (gapAt t l s).alc = s.alc ∧
    (gapAt t l s).txq = s.txq ∧ (gapAt t l s).ras = s.ras ∧ (gapAt t l s).dlv = s.dlv ∧ (gapAt t l s).trb = s.trb ∧
    (gapAt t l s).mgt = s.mgt ∧ (gapAt t l s).freeIx = s.freeIx ∧ (gapAt t l s).pending = s.pending := by
  refine ⟨rfl, rfl, rfl, rfl, rfl, rfl, rfl, rfl, rfl, rfl, rfl, rfl, rfl, rfl, rfl, rfl, rfl, rfl, rfl, rfl, rfl,
    rfl, rfl, rfl, rfl, rfl, rfl, rfl, rfl, rfl, rfl⟩

/-- What `passDataSlot` leaves as it is. -/
@[simp] theorem passDataSlot_frame (o : Bool) (n : Nat) (s : State) :
    (passDataSlot o n s).pins = s.pins ∧ (passDataSlot o n s).cleaning = s.cleaning ∧
    (passDataSlot o n s).breakHeld = s.breakHeld ∧ (passDataSlot o n s).lif = s.lif ∧
    (passDataSlot o n s).cyc.state = s.cyc.state ∧ (passDataSlot o n s).cyc.haltCause = s.cyc.haltCause ∧
    (passDataSlot o n s).cyc.leavePending = s.cyc.leavePending ∧
    (passDataSlot o n s).cyc.joinAttempt = s.cyc.joinAttempt ∧ (passDataSlot o n s).cyc.joinCycle = s.cyc.joinCycle ∧
    (passDataSlot o n s).cyc.outOfStep = s.cyc.outOfStep ∧ (passDataSlot o n s).cyc.echoFault = s.cyc.echoFault ∧
    (passDataSlot o n s).cyc.profileChecked = s.cyc.profileChecked ∧
    (passDataSlot o n s).cyc.coldStart = s.cyc.coldStart ∧ (passDataSlot o n s).cyc.pendingLoad = s.cyc.pendingLoad ∧
    (passDataSlot o n s).cyc.timingLock = s.cyc.timingLock ∧
    (passDataSlot o n s).cyc.boundaryDue = s.cyc.boundaryDue ∧
    (passDataSlot o n s).cyc.cycleStart = s.cyc.cycleStart ∧ (passDataSlot o n s).cyc.annStart = s.cyc.annStart ∧
    (passDataSlot o n s).cyc.dataStart = s.cyc.dataStart ∧ (passDataSlot o n s).cyc.dataEnd = s.cyc.dataEnd ∧
    (passDataSlot o n s).cyc.unslottedUntil = s.cyc.unslottedUntil ∧
    (passDataSlot o n s).cyc.fixedAt = s.cyc.fixedAt ∧ (passDataSlot o n s).cyc.layout = s.cyc.layout ∧
    (passDataSlot o n s).cyc.listenTimer = s.cyc.listenTimer ∧ (passDataSlot o n s).cyc.lineLost = s.cyc.lineLost ∧
    (passDataSlot o n s).cyc.bids = s.cyc.bids ∧ (passDataSlot o n s).cyc.outcome = s.cyc.outcome ∧
    (passDataSlot o n s).cyc.eligibleLast = s.cyc.eligibleLast ∧ (passDataSlot o n s).ssu = s.ssu ∧
    (passDataSlot o n s).alc = s.alc ∧ (passDataSlot o n s).txq = s.txq ∧ (passDataSlot o n s).ras = s.ras ∧
    (passDataSlot o n s).dlv = s.dlv ∧ (passDataSlot o n s).trb = s.trb ∧ (passDataSlot o n s).mgt = s.mgt ∧
    (passDataSlot o n s).freeIx = s.freeIx ∧ (passDataSlot o n s).pending = s.pending := by
  refine ⟨rfl, rfl, rfl, rfl, rfl, rfl, rfl, rfl, rfl, rfl, rfl, rfl, rfl, rfl, rfl, rfl, rfl, rfl, rfl, rfl, rfl,
    rfl, rfl, rfl, rfl, rfl, rfl, rfl, rfl, rfl, rfl, rfl, rfl, rfl, rfl, rfl, rfl⟩

/-- What `switchReceiverOff` leaves as it is. -/
@[simp] theorem switchReceiverOff_frame (s : State) :
    (switchReceiverOff s).pins = s.pins ∧ (switchReceiverOff s).cleaning = s.cleaning ∧
    (switchReceiverOff s).breakHeld = s.breakHeld ∧ (switchReceiverOff s).lif.tx = s.lif.tx ∧
    (switchReceiverOff s).cyc = s.cyc ∧ (switchReceiverOff s).ssu = s.ssu ∧ (switchReceiverOff s).alc = s.alc ∧
    (switchReceiverOff s).txq = s.txq ∧ (switchReceiverOff s).ras = s.ras ∧ (switchReceiverOff s).dlv = s.dlv ∧
    (switchReceiverOff s).trb = s.trb ∧ (switchReceiverOff s).mgt = s.mgt ∧ (switchReceiverOff s).freeIx = s.freeIx ∧
    (switchReceiverOff s).pending = s.pending := by
  refine ⟨rfl, rfl, rfl, rfl, rfl, rfl, rfl, rfl, rfl, rfl, rfl, rfl, rfl, rfl⟩

/-- What `fixEndSlotted` leaves as it is. -/
@[simp] theorem fixEndSlotted_frame (i n : Nat) (f : Frame) (r : Reception) (s : State) :
    (fixEndSlotted i n f r s).pins = s.pins ∧ (fixEndSlotted i n f r s).cleaning = s.cleaning ∧
    (fixEndSlotted i n f r s).breakHeld = s.breakHeld ∧ (fixEndSlotted i n f r s).lif = s.lif ∧
    (fixEndSlotted i n f r s).cyc.state = s.cyc.state ∧ (fixEndSlotted i n f r s).cyc.haltCause = s.cyc.haltCause ∧
    (fixEndSlotted i n f r s).cyc.leavePending = s.cyc.leavePending ∧
    (fixEndSlotted i n f r s).cyc.joinAttempt = s.cyc.joinAttempt ∧
    (fixEndSlotted i n f r s).cyc.joinCycle = s.cyc.joinCycle ∧
    (fixEndSlotted i n f r s).cyc.outOfStep = s.cyc.outOfStep ∧
    (fixEndSlotted i n f r s).cyc.echoFault = s.cyc.echoFault ∧
    (fixEndSlotted i n f r s).cyc.profileChecked = s.cyc.profileChecked ∧
    (fixEndSlotted i n f r s).cyc.coldStart = s.cyc.coldStart ∧
    (fixEndSlotted i n f r s).cyc.pendingLoad = s.cyc.pendingLoad ∧
    (fixEndSlotted i n f r s).cyc.boundaryDue = s.cyc.boundaryDue ∧
    (fixEndSlotted i n f r s).cyc.cycleStart = s.cyc.cycleStart ∧
    (fixEndSlotted i n f r s).cyc.annStart = s.cyc.annStart ∧
    (fixEndSlotted i n f r s).cyc.unslottedUntil = s.cyc.unslottedUntil ∧
    (fixEndSlotted i n f r s).cyc.fixedAt = s.cyc.fixedAt ∧ (fixEndSlotted i n f r s).cyc.layout = s.cyc.layout ∧
    (fixEndSlotted i n f r s).cyc.listenTimer = s.cyc.listenTimer ∧ (fixEndSlotted i n f r s).cyc.bids = s.cyc.bids ∧
    (fixEndSlotted i n f r s).cyc.outcome = s.cyc.outcome ∧
    (fixEndSlotted i n f r s).cyc.eligibleLast = s.cyc.eligibleLast ∧ (fixEndSlotted i n f r s).ssu = s.ssu ∧
    (fixEndSlotted i n f r s).alc = s.alc ∧ (fixEndSlotted i n f r s).txq = s.txq ∧
    (fixEndSlotted i n f r s).ras = s.ras ∧ (fixEndSlotted i n f r s).dlv = s.dlv ∧
    (fixEndSlotted i n f r s).trb = s.trb ∧ (fixEndSlotted i n f r s).mgt = s.mgt ∧
    (fixEndSlotted i n f r s).freeIx = s.freeIx ∧ (fixEndSlotted i n f r s).pending = s.pending := by
  refine ⟨rfl, rfl, rfl, rfl, rfl, rfl, rfl, rfl, rfl, rfl, rfl, rfl, rfl, rfl, rfl, rfl, rfl, rfl, rfl, rfl, rfl,
    rfl, rfl, rfl, rfl, rfl, rfl, rfl, rfl, rfl, rfl, rfl, rfl⟩

/-- What `refreshCycle` leaves as it is. -/
@[simp] theorem refreshCycle_frame (k : Nat) (r : Reception) (s : State) :
    (refreshCycle k r s).pins = s.pins ∧ (refreshCycle k r s).cleaning = s.cleaning ∧
    (refreshCycle k r s).breakHeld = s.breakHeld ∧ (refreshCycle k r s).lif = s.lif ∧
    (refreshCycle k r s).cyc.state = s.cyc.state ∧ (refreshCycle k r s).cyc.haltCause = s.cyc.haltCause ∧
    (refreshCycle k r s).cyc.leavePending = s.cyc.leavePending ∧
    (refreshCycle k r s).cyc.joinAttempt = s.cyc.joinAttempt ∧ (refreshCycle k r s).cyc.joinCycle = s.cyc.joinCycle ∧
    (refreshCycle k r s).cyc.outOfStep = s.cyc.outOfStep ∧ (refreshCycle k r s).cyc.echoFault = s.cyc.echoFault ∧
    (refreshCycle k r s).cyc.profileChecked = s.cyc.profileChecked ∧
    (refreshCycle k r s).cyc.coldStart = s.cyc.coldStart ∧ (refreshCycle k r s).cyc.pendingLoad = s.cyc.pendingLoad ∧
    (refreshCycle k r s).cyc.position = s.cyc.position ∧ (refreshCycle k r s).cyc.boundaryDue = s.cyc.boundaryDue ∧
    (refreshCycle k r s).cyc.dataStart = s.cyc.dataStart ∧ (refreshCycle k r s).cyc.dataEnd = s.cyc.dataEnd ∧
    (refreshCycle k r s).cyc.unslottedUntil = s.cyc.unslottedUntil ∧
    (refreshCycle k r s).cyc.fixedAt = s.cyc.fixedAt ∧ (refreshCycle k r s).cyc.layout = s.cyc.layout ∧
    (refreshCycle k r s).cyc.listenTimer = s.cyc.listenTimer ∧ (refreshCycle k r s).cyc.bids = s.cyc.bids ∧
    (refreshCycle k r s).cyc.outcome = s.cyc.outcome ∧ (refreshCycle k r s).cyc.eligibleLast = s.cyc.eligibleLast ∧
    (refreshCycle k r s).ssu = s.ssu ∧ (refreshCycle k r s).alc = s.alc ∧ (refreshCycle k r s).txq = s.txq ∧
    (refreshCycle k r s).ras = s.ras ∧ (refreshCycle k r s).dlv = s.dlv ∧ (refreshCycle k r s).trb = s.trb ∧
    (refreshCycle k r s).mgt = s.mgt ∧ (refreshCycle k r s).freeIx = s.freeIx ∧
    (refreshCycle k r s).pending = s.pending := by
  refine ⟨rfl, rfl, rfl, rfl, rfl, rfl, rfl, rfl, rfl, rfl, rfl, rfl, rfl, rfl, rfl, rfl, rfl, rfl, rfl, rfl, rfl,
    rfl, rfl, rfl, rfl, rfl, rfl, rfl, rfl, rfl, rfl, rfl, rfl, rfl⟩

/-! ### What the plain updates write -/

@[simp] theorem raiseEvent_events (e : Event) (s : State) :
    (raiseEvent e s).mgt.events = s.mgt.events.set e true := rfl
@[simp] theorem raiseEvent_arisen (e : Event) (s : State) :
    (raiseEvent e s).mgt.arisen = s.mgt.arisen.set e true := rfl
@[simp] theorem countEvent_counters (c : Counter) (s : State) :
    (countEvent c s).mgt.counters = s.mgt.counters.set c (saturatingSucc (s.mgt.counters.get c)) := rfl
@[simp] theorem returnBuffers_free (n : Nat) (s : State) : (returnBuffers n s).ras.free = s.ras.free + n := rfl
@[simp] theorem setParser_parser (p : Parser) (s : State) : (setParser p s).trb.parser = p := rfl
@[simp] theorem endRead_capture (s : State) : (endRead s).mgt.capture = none := rfl
@[simp] theorem withSched_sched (d : Sched) (s : State) : (withSched d s).ssu.sched = d := rfl
@[simp] theorem withSched_digest (d : Sched) (s : State) : (withSched d s).ssu.digest = d.digest := by
  simp only [withSched]
@[simp] theorem clearSched_ssu (s : State) : (clearSched s).ssu = ⟨Sched.empty, Sched.empty.digest, none⟩ := by
  simp only [clearSched, withSched]
@[simp] theorem dropGrants_alc (s : State) : (dropGrants s).alc = ⟨none⟩ := rfl
@[simp] theorem dropGrants_tableOut (s : State) : (dropGrants s).ssu.tableOut = none := rfl
@[simp] theorem loseTiming_timingLock (s : State) : (loseTiming s).cyc.timingLock = false := rfl
@[simp] theorem loseTiming_position (s : State) : (loseTiming s).cyc.position = .none := rfl
@[simp] theorem loseTiming_lineLost (s : State) : (loseTiming s).cyc.lineLost = .stopped := rfl
@[simp] theorem loseTiming_layout (s : State) : (loseTiming s).cyc.layout = .unknown := rfl
@[simp] theorem loseTiming_moments (s : State) :
    (loseTiming s).cyc.cycleStart = none ∧ (loseTiming s).cyc.annStart = none ∧
    (loseTiming s).cyc.dataStart = none ∧ (loseTiming s).cyc.dataEnd = none ∧
    (loseTiming s).cyc.boundaryDue = false ∧ (loseTiming s).cyc.unslottedUntil = none ∧
    (loseTiming s).cyc.fixedAt = none :=
  ⟨rfl, rfl, rfl, rfl, rfl, rfl, rfl⟩
@[simp] theorem transmit_tx (f : Frame) (s : State) : (transmit f s).lif.tx = some f := rfl
@[simp] theorem transmit_echo (f : Frame) (s : State) : (transmit f s).lif.echo = some ⟨f, s.pins.cd, none⟩ := rfl
@[simp] theorem transmitStart_tx (f : Frame) (s : State) : (transmitStart f s).lif.tx = some f := rfl
@[simp] theorem transmitStart_startEcho (f : Frame) (s : State) :
    (transmitStart f s).lif.startEcho = some ⟨f, s.pins.cd, none⟩ := rfl
@[simp] theorem dropSlotEcho_echo (s : State) : (dropSlotEcho s).lif.echo = none := rfl
@[simp] theorem fixUnknownSlots_position (e : Time) (x : Option Time) (s : State) :
    (fixUnknownSlots e x s).cyc.position = .dataFixed none := rfl
@[simp] theorem fixUnknownSlots_dataEnd (e : Time) (x : Option Time) (s : State) :
    (fixUnknownSlots e x s).cyc.dataEnd = x := rfl
@[simp] theorem fixUnknownSlots_fixedAt (e : Time) (x : Option Time) (s : State) :
    (fixUnknownSlots e x s).cyc.fixedAt = some e := rfl
@[simp] theorem restartLineLost_timingLock (e : Time) (s : State) :
    (restartLineLost e s).cyc.timingLock = true := rfl
@[simp] theorem restartLineLost_lineLost (e : Time) (s : State) :
    (restartLineLost e s).cyc.lineLost = .running e := rfl
@[simp] theorem enterRecord_bids (k : Nat) (r : BidRecord) (s : State) :
    (enterRecord k r s).cyc.bids = s.cyc.bids.enter k r := rfl
@[simp] theorem gapAt_position (t : Time) (l : Layout) (s : State) : (gapAt t l s).cyc.position = .gap := rfl
@[simp] theorem switchReceiverOff_receiver (s : State) : (switchReceiverOff s).lif.receiver = .off := rfl

end Machine

end Sys2Proof
end

