-- ==== Sys2Proof/Laws/Frames.lean ====
section
/-! SUPPORT. What each shared operation leaves as it is: one frame lemma for each, for provers to cite in place of
unfolding it. -/

namespace Sys2Proof.Machine

/-- What `beginDelivery` leaves as it is. -/
@[simp] theorem beginDelivery_frame (q : Class) (s : State) :
    (beginDelivery q s).pins = s.pins ∧ (beginDelivery q s).cleaning = s.cleaning ∧
    (beginDelivery q s).breakHeld = s.breakHeld ∧ (beginDelivery q s).lif = s.lif ∧ (beginDelivery q s).cyc = s.cyc ∧
    (beginDelivery q s).ssu = s.ssu ∧ (beginDelivery q s).alc = s.alc ∧ (beginDelivery q s).txq = s.txq ∧
    (beginDelivery q s).ras = s.ras ∧ (beginDelivery q s).dlv.notices = s.dlv.notices ∧
    (beginDelivery q s).dlv.lost = s.dlv.lost ∧ (beginDelivery q s).dlv.pointer = s.dlv.pointer ∧
    (beginDelivery q s).dlv.run = s.dlv.run ∧ (beginDelivery q s).trb.parser = s.trb.parser ∧
    (beginDelivery q s).mgt = s.mgt ∧ (beginDelivery q s).freeIx = s.freeIx ∧
    (beginDelivery q s).pending = s.pending := by
  unfold beginDelivery
  (repeat' split) <;> simp

/-- What `arbitrateDelivery` leaves as it is. -/
@[simp] theorem arbitrateDelivery_frame (s : State) :
    (arbitrateDelivery s).pins = s.pins ∧ (arbitrateDelivery s).cleaning = s.cleaning ∧
    (arbitrateDelivery s).breakHeld = s.breakHeld ∧ (arbitrateDelivery s).lif = s.lif ∧
    (arbitrateDelivery s).cyc = s.cyc ∧ (arbitrateDelivery s).ssu = s.ssu ∧ (arbitrateDelivery s).alc = s.alc ∧
    (arbitrateDelivery s).txq = s.txq ∧ (arbitrateDelivery s).ras = s.ras ∧
    (arbitrateDelivery s).dlv.notices = s.dlv.notices ∧ (arbitrateDelivery s).dlv.lost = s.dlv.lost ∧
    (arbitrateDelivery s).trb.parser = s.trb.parser ∧ (arbitrateDelivery s).mgt = s.mgt ∧
    (arbitrateDelivery s).freeIx = s.freeIx ∧ (arbitrateDelivery s).pending = s.pending := by
  unfold arbitrateDelivery
  (repeat' split) <;> simp

/-- What `arbitrate` leaves as it is. -/
@[simp] theorem arbitrate_frame (s : State) :
    (arbitrate s).pins = s.pins ∧ (arbitrate s).cleaning = s.cleaning ∧ (arbitrate s).breakHeld = s.breakHeld ∧
    (arbitrate s).lif = s.lif ∧ (arbitrate s).cyc = s.cyc ∧ (arbitrate s).ssu = s.ssu ∧ (arbitrate s).alc = s.alc ∧
    (arbitrate s).txq = s.txq ∧ (arbitrate s).ras = s.ras ∧ (arbitrate s).dlv.lost = s.dlv.lost ∧
    (arbitrate s).trb.parser = s.trb.parser ∧ (arbitrate s).mgt = s.mgt ∧ (arbitrate s).freeIx = s.freeIx ∧
    (arbitrate s).pending = s.pending := by
  unfold arbitrate
  (repeat' split) <;> simp

/-- What `takeNotice` leaves as it is. -/
@[simp] theorem takeNotice_frame (n : Notice) (s : State) :
    (takeNotice n s).pins = s.pins ∧ (takeNotice n s).cleaning = s.cleaning ∧
    (takeNotice n s).breakHeld = s.breakHeld ∧ (takeNotice n s).lif = s.lif ∧ (takeNotice n s).cyc = s.cyc ∧
    (takeNotice n s).ssu = s.ssu ∧ (takeNotice n s).alc = s.alc ∧ (takeNotice n s).txq = s.txq ∧
    (takeNotice n s).ras = s.ras ∧ (takeNotice n s).trb.parser = s.trb.parser ∧
    (takeNotice n s).mgt.profile = s.mgt.profile ∧ (takeNotice n s).mgt.settings = s.mgt.settings ∧
    (takeNotice n s).mgt.mask = s.mgt.mask ∧ (takeNotice n s).mgt.refusal = s.mgt.refusal ∧
    (takeNotice n s).mgt.counters = s.mgt.counters ∧ (takeNotice n s).mgt.capture = s.mgt.capture ∧
    (takeNotice n s).freeIx = s.freeIx ∧ (takeNotice n s).pending = s.pending := by
  unfold takeNotice
  (repeat' split) <;> simp

/-- What `takeNotices` leaves as it is. -/
@[simp] theorem takeNotices_frame (ns : List Notice) (s : State) :
    (takeNotices ns s).pins = s.pins ∧ (takeNotices ns s).cleaning = s.cleaning ∧
    (takeNotices ns s).breakHeld = s.breakHeld ∧ (takeNotices ns s).lif = s.lif ∧ (takeNotices ns s).cyc = s.cyc ∧
    (takeNotices ns s).ssu = s.ssu ∧ (takeNotices ns s).alc = s.alc ∧ (takeNotices ns s).txq = s.txq ∧
    (takeNotices ns s).ras = s.ras ∧ (takeNotices ns s).trb.parser = s.trb.parser ∧
    (takeNotices ns s).mgt.profile = s.mgt.profile ∧ (takeNotices ns s).mgt.settings = s.mgt.settings ∧
    (takeNotices ns s).mgt.mask = s.mgt.mask ∧ (takeNotices ns s).mgt.refusal = s.mgt.refusal ∧
    (takeNotices ns s).mgt.counters = s.mgt.counters ∧ (takeNotices ns s).mgt.capture = s.mgt.capture ∧
    (takeNotices ns s).freeIx = s.freeIx ∧ (takeNotices ns s).pending = s.pending := by
  unfold takeNotices
  induction ns generalizing s with
  | nil => simp
  | cons n ns ih => simp [List.foldl_cons, ih]

/-- What `raiseRefused` leaves as it is. -/
@[simp] theorem raiseRefused_frame (k : RefusalCause) (c : Class) (tag : Byte) (s : State) :
    (raiseRefused k c tag s).pins = s.pins ∧ (raiseRefused k c tag s).cleaning = s.cleaning ∧
    (raiseRefused k c tag s).breakHeld = s.breakHeld ∧ (raiseRefused k c tag s).lif = s.lif ∧
    (raiseRefused k c tag s).cyc = s.cyc ∧ (raiseRefused k c tag s).ssu = s.ssu ∧
    (raiseRefused k c tag s).alc = s.alc ∧ (raiseRefused k c tag s).txq = s.txq ∧
    (raiseRefused k c tag s).ras = s.ras ∧ (raiseRefused k c tag s).trb.parser = s.trb.parser ∧
    (raiseRefused k c tag s).mgt.profile = s.mgt.profile ∧ (raiseRefused k c tag s).mgt.settings = s.mgt.settings ∧
    (raiseRefused k c tag s).mgt.mask = s.mgt.mask ∧ (raiseRefused k c tag s).mgt.refusal = s.mgt.refusal ∧
    (raiseRefused k c tag s).mgt.capture = s.mgt.capture ∧ (raiseRefused k c tag s).freeIx = s.freeIx ∧
    (raiseRefused k c tag s).pending = s.pending := by
  unfold raiseRefused
  simp

/-- What `offerRecord` leaves as it is. -/
@[simp] theorem offerRecord_frame (q : Class) (r : DeliveredRecord) (s : State) :
    (offerRecord q r s).pins = s.pins ∧ (offerRecord q r s).cleaning = s.cleaning ∧
    (offerRecord q r s).breakHeld = s.breakHeld ∧ (offerRecord q r s).lif = s.lif ∧ (offerRecord q r s).cyc = s.cyc ∧
    (offerRecord q r s).ssu = s.ssu ∧ (offerRecord q r s).alc = s.alc ∧ (offerRecord q r s).txq = s.txq ∧
    (offerRecord q r s).ras.contexts = s.ras.contexts ∧ (offerRecord q r s).dlv.lost = s.dlv.lost ∧
    (offerRecord q r s).trb.parser = s.trb.parser ∧ (offerRecord q r s).mgt.profile = s.mgt.profile ∧
    (offerRecord q r s).mgt.settings = s.mgt.settings ∧ (offerRecord q r s).mgt.events = s.mgt.events ∧
    (offerRecord q r s).mgt.arisen = s.mgt.arisen ∧ (offerRecord q r s).mgt.mask = s.mgt.mask ∧
    (offerRecord q r s).mgt.refusal = s.mgt.refusal ∧ (offerRecord q r s).mgt.capture = s.mgt.capture ∧
    (offerRecord q r s).freeIx = s.freeIx ∧ (offerRecord q r s).pending = s.pending := by
  unfold offerRecord
  (repeat' split) <;> simp

/-- What `handOff` leaves as it is. -/
@[simp] theorem handOff_frame (r : DeliveredRecord) (s : State) :
    (handOff r s).pins = s.pins ∧ (handOff r s).cleaning = s.cleaning ∧ (handOff r s).breakHeld = s.breakHeld ∧
    (handOff r s).lif = s.lif ∧ (handOff r s).cyc = s.cyc ∧ (handOff r s).ssu = s.ssu ∧ (handOff r s).alc = s.alc ∧
    (handOff r s).txq = s.txq ∧ (handOff r s).ras.contexts = s.ras.contexts ∧ (handOff r s).dlv.lost = s.dlv.lost ∧
    (handOff r s).trb.parser = s.trb.parser ∧ (handOff r s).mgt.profile = s.mgt.profile ∧
    (handOff r s).mgt.settings = s.mgt.settings ∧ (handOff r s).mgt.events = s.mgt.events ∧
    (handOff r s).mgt.arisen = s.mgt.arisen ∧ (handOff r s).mgt.mask = s.mgt.mask ∧
    (handOff r s).mgt.refusal = s.mgt.refusal ∧ (handOff r s).mgt.capture = s.mgt.capture ∧
    (handOff r s).freeIx = s.freeIx ∧ (handOff r s).pending = s.pending := by
  unfold handOff
  (repeat' split) <;> simp

/-- What `takeEgressWord` leaves as it is. -/
@[simp] theorem takeEgressWord_frame (s : State) :
    (takeEgressWord s).pins = s.pins ∧ (takeEgressWord s).cleaning = s.cleaning ∧
    (takeEgressWord s).breakHeld = s.breakHeld ∧ (takeEgressWord s).lif = s.lif ∧ (takeEgressWord s).cyc = s.cyc ∧
    (takeEgressWord s).ssu = s.ssu ∧ (takeEgressWord s).alc = s.alc ∧ (takeEgressWord s).txq = s.txq ∧
    (takeEgressWord s).ras.contexts = s.ras.contexts ∧ (takeEgressWord s).dlv.lost = s.dlv.lost ∧
    (takeEgressWord s).trb.parser = s.trb.parser ∧ (takeEgressWord s).mgt = s.mgt ∧
    (takeEgressWord s).freeIx = s.freeIx ∧ (takeEgressWord s).pending = s.pending := by
  unfold takeEgressWord
  (repeat' split) <;> simp

/-- What `abortContext` leaves as it is. -/
@[simp] theorem abortContext_frame (w : AbortReason) (c : Context) (s : State) :
    (abortContext w c s).pins = s.pins ∧ (abortContext w c s).cleaning = s.cleaning ∧
    (abortContext w c s).breakHeld = s.breakHeld ∧ (abortContext w c s).lif = s.lif ∧
    (abortContext w c s).cyc = s.cyc ∧ (abortContext w c s).ssu = s.ssu ∧ (abortContext w c s).alc = s.alc ∧
    (abortContext w c s).txq = s.txq ∧ (abortContext w c s).dlv.lost = s.dlv.lost ∧
    (abortContext w c s).trb.parser = s.trb.parser ∧ (abortContext w c s).mgt.profile = s.mgt.profile ∧
    (abortContext w c s).mgt.settings = s.mgt.settings ∧ (abortContext w c s).mgt.events = s.mgt.events ∧
    (abortContext w c s).mgt.arisen = s.mgt.arisen ∧ (abortContext w c s).mgt.mask = s.mgt.mask ∧
    (abortContext w c s).mgt.refusal = s.mgt.refusal ∧ (abortContext w c s).mgt.capture = s.mgt.capture ∧
    (abortContext w c s).freeIx = s.freeIx ∧ (abortContext w c s).pending = s.pending := by
  unfold abortContext
  dsimp only
  (repeat' split) <;> simp

/-- What contexts aborted one after the other leave as it is. -/
@[simp] theorem abortEach_frame (w : AbortReason) (cs : List Context) (s : State) :
    (cs.foldl (fun s c => abortContext w c s) s).pins = s.pins ∧
    (cs.foldl (fun s c => abortContext w c s) s).cleaning = s.cleaning ∧
    (cs.foldl (fun s c => abortContext w c s) s).breakHeld = s.breakHeld ∧
    (cs.foldl (fun s c => abortContext w c s) s).lif = s.lif ∧
    (cs.foldl (fun s c => abortContext w c s) s).cyc = s.cyc ∧
    (cs.foldl (fun s c => abortContext w c s) s).ssu = s.ssu ∧
    (cs.foldl (fun s c => abortContext w c s) s).alc = s.alc ∧
    (cs.foldl (fun s c => abortContext w c s) s).txq = s.txq ∧
    (cs.foldl (fun s c => abortContext w c s) s).dlv.lost = s.dlv.lost ∧
    (cs.foldl (fun s c => abortContext w c s) s).trb.parser = s.trb.parser ∧
    (cs.foldl (fun s c => abortContext w c s) s).mgt.profile = s.mgt.profile ∧
    (cs.foldl (fun s c => abortContext w c s) s).mgt.settings = s.mgt.settings ∧
    (cs.foldl (fun s c => abortContext w c s) s).mgt.events = s.mgt.events ∧
    (cs.foldl (fun s c => abortContext w c s) s).mgt.arisen = s.mgt.arisen ∧
    (cs.foldl (fun s c => abortContext w c s) s).mgt.mask = s.mgt.mask ∧
    (cs.foldl (fun s c => abortContext w c s) s).mgt.refusal = s.mgt.refusal ∧
    (cs.foldl (fun s c => abortContext w c s) s).mgt.capture = s.mgt.capture ∧
    (cs.foldl (fun s c => abortContext w c s) s).freeIx = s.freeIx ∧
    (cs.foldl (fun s c => abortContext w c s) s).pending = s.pending := by
  induction cs generalizing s with
  | nil => simp
  | cons c cs ih => simp [List.foldl_cons, ih]

/-- What `abortContexts` leaves as it is. -/
@[simp] theorem abortContexts_frame (w : AbortReason) (cs : List Context) (s : State) :
    (abortContexts w cs s).pins = s.pins ∧ (abortContexts w cs s).cleaning = s.cleaning ∧
    (abortContexts w cs s).breakHeld = s.breakHeld ∧ (abortContexts w cs s).lif = s.lif ∧
    (abortContexts w cs s).cyc = s.cyc ∧ (abortContexts w cs s).ssu = s.ssu ∧ (abortContexts w cs s).alc = s.alc ∧
    (abortContexts w cs s).txq = s.txq ∧ (abortContexts w cs s).dlv.lost = s.dlv.lost ∧
    (abortContexts w cs s).trb.parser = s.trb.parser ∧ (abortContexts w cs s).mgt.profile = s.mgt.profile ∧
    (abortContexts w cs s).mgt.settings = s.mgt.settings ∧ (abortContexts w cs s).mgt.events = s.mgt.events ∧
    (abortContexts w cs s).mgt.arisen = s.mgt.arisen ∧ (abortContexts w cs s).mgt.mask = s.mgt.mask ∧
    (abortContexts w cs s).mgt.refusal = s.mgt.refusal ∧ (abortContexts w cs s).mgt.capture = s.mgt.capture ∧
    (abortContexts w cs s).pending = s.pending := by
  unfold abortContexts
  simp

/-- What `removeSources` leaves as it is. -/
@[simp] theorem removeSources_frame (rs : List Station) (s : State) :
    (removeSources rs s).pins = s.pins ∧ (removeSources rs s).cleaning = s.cleaning ∧
    (removeSources rs s).breakHeld = s.breakHeld ∧ (removeSources rs s).lif = s.lif ∧
    (removeSources rs s).cyc = s.cyc ∧ (removeSources rs s).ssu = s.ssu ∧ (removeSources rs s).alc = s.alc ∧
    (removeSources rs s).txq = s.txq ∧ (removeSources rs s).dlv.lost = s.dlv.lost ∧
    (removeSources rs s).trb.parser = s.trb.parser ∧ (removeSources rs s).mgt.profile = s.mgt.profile ∧
    (removeSources rs s).mgt.settings = s.mgt.settings ∧ (removeSources rs s).mgt.events = s.mgt.events ∧
    (removeSources rs s).mgt.arisen = s.mgt.arisen ∧ (removeSources rs s).mgt.mask = s.mgt.mask ∧
    (removeSources rs s).mgt.refusal = s.mgt.refusal ∧ (removeSources rs s).mgt.capture = s.mgt.capture ∧
    (removeSources rs s).pending = s.pending := by
  unfold removeSources
  simp

/-- What `openContext` leaves as it is. -/
@[simp] theorem openContext_frame (t : Time) (f : SegmentFrame) (s : State) :
    (openContext t f s).pins = s.pins ∧ (openContext t f s).cleaning = s.cleaning ∧
    (openContext t f s).breakHeld = s.breakHeld ∧ (openContext t f s).lif = s.lif ∧ (openContext t f s).cyc = s.cyc ∧
    (openContext t f s).ssu = s.ssu ∧ (openContext t f s).alc = s.alc ∧ (openContext t f s).txq = s.txq ∧
    (openContext t f s).dlv.lost = s.dlv.lost ∧ (openContext t f s).trb.parser = s.trb.parser ∧
    (openContext t f s).mgt.profile = s.mgt.profile ∧ (openContext t f s).mgt.settings = s.mgt.settings ∧
    (openContext t f s).mgt.events = s.mgt.events ∧ (openContext t f s).mgt.arisen = s.mgt.arisen ∧
    (openContext t f s).mgt.mask = s.mgt.mask ∧ (openContext t f s).mgt.refusal = s.mgt.refusal ∧
    (openContext t f s).mgt.capture = s.mgt.capture ∧ (openContext t f s).freeIx = s.freeIx ∧
    (openContext t f s).pending = s.pending := by
  unfold openContext
  dsimp only
  (repeat' split) <;> simp

/-- What `firstSegment` leaves as it is. -/
@[simp] theorem firstSegment_frame (t : Time) (f : SegmentFrame) (s : State) :
    (firstSegment t f s).pins = s.pins ∧ (firstSegment t f s).cleaning = s.cleaning ∧
    (firstSegment t f s).breakHeld = s.breakHeld ∧ (firstSegment t f s).lif = s.lif ∧
    (firstSegment t f s).cyc = s.cyc ∧ (firstSegment t f s).ssu = s.ssu ∧ (firstSegment t f s).alc = s.alc ∧
    (firstSegment t f s).txq = s.txq ∧ (firstSegment t f s).dlv.lost = s.dlv.lost ∧
    (firstSegment t f s).trb.parser = s.trb.parser ∧ (firstSegment t f s).mgt.profile = s.mgt.profile ∧
    (firstSegment t f s).mgt.settings = s.mgt.settings ∧ (firstSegment t f s).mgt.events = s.mgt.events ∧
    (firstSegment t f s).mgt.arisen = s.mgt.arisen ∧ (firstSegment t f s).mgt.mask = s.mgt.mask ∧
    (firstSegment t f s).mgt.refusal = s.mgt.refusal ∧ (firstSegment t f s).mgt.capture = s.mgt.capture ∧
    (firstSegment t f s).freeIx = s.freeIx ∧ (firstSegment t f s).pending = s.pending := by
  unfold firstSegment
  dsimp only
  (repeat' split) <;> simp

/-- What `laterSegment` leaves as it is. -/
@[simp] theorem laterSegment_frame (t : Time) (f : SegmentFrame) (s : State) :
    (laterSegment t f s).pins = s.pins ∧ (laterSegment t f s).cleaning = s.cleaning ∧
    (laterSegment t f s).breakHeld = s.breakHeld ∧ (laterSegment t f s).lif = s.lif ∧
    (laterSegment t f s).cyc = s.cyc ∧ (laterSegment t f s).ssu = s.ssu ∧ (laterSegment t f s).alc = s.alc ∧
    (laterSegment t f s).txq = s.txq ∧ (laterSegment t f s).dlv.lost = s.dlv.lost ∧
    (laterSegment t f s).trb.parser = s.trb.parser ∧ (laterSegment t f s).mgt.profile = s.mgt.profile ∧
    (laterSegment t f s).mgt.settings = s.mgt.settings ∧ (laterSegment t f s).mgt.events = s.mgt.events ∧
    (laterSegment t f s).mgt.arisen = s.mgt.arisen ∧ (laterSegment t f s).mgt.mask = s.mgt.mask ∧
    (laterSegment t f s).mgt.refusal = s.mgt.refusal ∧ (laterSegment t f s).mgt.capture = s.mgt.capture ∧
    (laterSegment t f s).freeIx = s.freeIx ∧ (laterSegment t f s).pending = s.pending := by
  unfold laterSegment
  (repeat' split) <;> simp

/-- What `takeSegment` leaves as it is. -/
@[simp] theorem takeSegment_frame (t : Time) (f : SegmentFrame) (s : State) :
    (takeSegment t f s).pins = s.pins ∧ (takeSegment t f s).cleaning = s.cleaning ∧
    (takeSegment t f s).breakHeld = s.breakHeld ∧ (takeSegment t f s).lif = s.lif ∧ (takeSegment t f s).cyc = s.cyc ∧
    (takeSegment t f s).ssu = s.ssu ∧ (takeSegment t f s).alc = s.alc ∧ (takeSegment t f s).txq = s.txq ∧
    (takeSegment t f s).dlv.lost = s.dlv.lost ∧ (takeSegment t f s).trb.parser = s.trb.parser ∧
    (takeSegment t f s).mgt.profile = s.mgt.profile ∧ (takeSegment t f s).mgt.settings = s.mgt.settings ∧
    (takeSegment t f s).mgt.events = s.mgt.events ∧ (takeSegment t f s).mgt.arisen = s.mgt.arisen ∧
    (takeSegment t f s).mgt.mask = s.mgt.mask ∧ (takeSegment t f s).mgt.refusal = s.mgt.refusal ∧
    (takeSegment t f s).mgt.capture = s.mgt.capture ∧ (takeSegment t f s).freeIx = s.freeIx ∧
    (takeSegment t f s).pending = s.pending := by
  unfold takeSegment
  (repeat' split) <;> simp

/-- What `takeAbort` leaves as it is. -/
@[simp] theorem takeAbort_frame (f : AbortFrame) (s : State) :
    (takeAbort f s).pins = s.pins ∧ (takeAbort f s).cleaning = s.cleaning ∧ (takeAbort f s).breakHeld = s.breakHeld ∧
    (takeAbort f s).lif = s.lif ∧ (takeAbort f s).cyc = s.cyc ∧ (takeAbort f s).ssu = s.ssu ∧
    (takeAbort f s).alc = s.alc ∧ (takeAbort f s).txq = s.txq ∧ (takeAbort f s).dlv.lost = s.dlv.lost ∧
    (takeAbort f s).trb.parser = s.trb.parser ∧ (takeAbort f s).mgt.profile = s.mgt.profile ∧
    (takeAbort f s).mgt.settings = s.mgt.settings ∧ (takeAbort f s).mgt.events = s.mgt.events ∧
    (takeAbort f s).mgt.arisen = s.mgt.arisen ∧ (takeAbort f s).mgt.mask = s.mgt.mask ∧
    (takeAbort f s).mgt.refusal = s.mgt.refusal ∧ (takeAbort f s).mgt.capture = s.mgt.capture ∧
    (takeAbort f s).freeIx = s.freeIx ∧ (takeAbort f s).pending = s.pending := by
  unfold takeAbort
  (repeat' split) <;> simp

/-- What `rasSessionEnd` leaves as it is. -/
@[simp] theorem rasSessionEnd_frame (s : State) :
    (rasSessionEnd s).pins = s.pins ∧ (rasSessionEnd s).cleaning = s.cleaning ∧
    (rasSessionEnd s).breakHeld = s.breakHeld ∧ (rasSessionEnd s).lif = s.lif ∧ (rasSessionEnd s).cyc = s.cyc ∧
    (rasSessionEnd s).ssu = s.ssu ∧ (rasSessionEnd s).alc = s.alc ∧ (rasSessionEnd s).txq = s.txq ∧
    (rasSessionEnd s).dlv.lost = s.dlv.lost ∧ (rasSessionEnd s).trb.parser = s.trb.parser ∧
    (rasSessionEnd s).mgt.profile = s.mgt.profile ∧ (rasSessionEnd s).mgt.settings = s.mgt.settings ∧
    (rasSessionEnd s).mgt.events = s.mgt.events ∧ (rasSessionEnd s).mgt.arisen = s.mgt.arisen ∧
    (rasSessionEnd s).mgt.mask = s.mgt.mask ∧ (rasSessionEnd s).mgt.refusal = s.mgt.refusal ∧
    (rasSessionEnd s).mgt.capture = s.mgt.capture ∧ (rasSessionEnd s).pending = s.pending := by
  unfold rasSessionEnd
  simp

/-- What `staleExpiry` leaves as it is. -/
@[simp] theorem staleExpiry_frame (t : Time) (st : Station) (c : Class) (s : State) :
    (staleExpiry t st c s).pins = s.pins ∧ (staleExpiry t st c s).cleaning = s.cleaning ∧
    (staleExpiry t st c s).breakHeld = s.breakHeld ∧ (staleExpiry t st c s).lif = s.lif ∧
    (staleExpiry t st c s).cyc = s.cyc ∧ (staleExpiry t st c s).ssu = s.ssu ∧ (staleExpiry t st c s).alc = s.alc ∧
    (staleExpiry t st c s).txq = s.txq ∧ (staleExpiry t st c s).dlv.lost = s.dlv.lost ∧
    (staleExpiry t st c s).trb.parser = s.trb.parser ∧ (staleExpiry t st c s).mgt.profile = s.mgt.profile ∧
    (staleExpiry t st c s).mgt.settings = s.mgt.settings ∧ (staleExpiry t st c s).mgt.events = s.mgt.events ∧
    (staleExpiry t st c s).mgt.arisen = s.mgt.arisen ∧ (staleExpiry t st c s).mgt.mask = s.mgt.mask ∧
    (staleExpiry t st c s).mgt.refusal = s.mgt.refusal ∧ (staleExpiry t st c s).mgt.capture = s.mgt.capture ∧
    (staleExpiry t st c s).freeIx = s.freeIx ∧ (staleExpiry t st c s).pending = s.pending := by
  unfold staleExpiry
  (repeat' split) <;> simp

/-- What `headerTaken` leaves as it is. -/
@[simp] theorem headerTaken_frame (h : FirstHead) (tag : Byte) (len : Nat) (s : State) :
    (headerTaken h tag len s).pins = s.pins ∧ (headerTaken h tag len s).cleaning = s.cleaning ∧
    (headerTaken h tag len s).breakHeld = s.breakHeld ∧ (headerTaken h tag len s).lif = s.lif ∧
    (headerTaken h tag len s).cyc = s.cyc ∧ (headerTaken h tag len s).ssu = s.ssu ∧
    (headerTaken h tag len s).alc = s.alc ∧ (headerTaken h tag len s).txq.seqs = s.txq.seqs ∧
    (headerTaken h tag len s).ras = s.ras ∧ (headerTaken h tag len s).dlv = s.dlv ∧
    (headerTaken h tag len s).trb = s.trb ∧ (headerTaken h tag len s).mgt = s.mgt ∧
    (headerTaken h tag len s).freeIx = s.freeIx ∧ (headerTaken h tag len s).pending = s.pending := by
  unfold headerTaken
  (repeat' split) <;> simp

/-- What `payloadTaken` leaves as it is. -/
@[simp] theorem payloadTaken_frame (w : Word) (s : State) :
    (payloadTaken w s).pins = s.pins ∧ (payloadTaken w s).cleaning = s.cleaning ∧
    (payloadTaken w s).breakHeld = s.breakHeld ∧ (payloadTaken w s).lif = s.lif ∧ (payloadTaken w s).cyc = s.cyc ∧
    (payloadTaken w s).ssu = s.ssu ∧ (payloadTaken w s).alc = s.alc ∧ (payloadTaken w s).txq.free = s.txq.free ∧
    (payloadTaken w s).txq.seqs = s.txq.seqs ∧ (payloadTaken w s).ras = s.ras ∧ (payloadTaken w s).dlv = s.dlv ∧
    (payloadTaken w s).trb = s.trb ∧ (payloadTaken w s).mgt = s.mgt ∧ (payloadTaken w s).freeIx = s.freeIx ∧
    (payloadTaken w s).pending = s.pending := by
  unfold payloadTaken
  (repeat' split) <;> simp

/-- What `dropMessage` leaves as it is. -/
@[simp] theorem dropMessage_frame (k : RefusalCause) (c : Class) (s : State) :
    (dropMessage k c s).pins = s.pins ∧ (dropMessage k c s).cleaning = s.cleaning ∧
    (dropMessage k c s).breakHeld = s.breakHeld ∧ (dropMessage k c s).lif = s.lif ∧ (dropMessage k c s).cyc = s.cyc ∧
    (dropMessage k c s).ssu = s.ssu ∧ (dropMessage k c s).alc = s.alc ∧ (dropMessage k c s).txq.seqs = s.txq.seqs ∧
    (dropMessage k c s).ras = s.ras ∧ (dropMessage k c s).trb.parser = s.trb.parser ∧
    (dropMessage k c s).mgt.profile = s.mgt.profile ∧ (dropMessage k c s).mgt.settings = s.mgt.settings ∧
    (dropMessage k c s).mgt.mask = s.mgt.mask ∧ (dropMessage k c s).mgt.refusal = s.mgt.refusal ∧
    (dropMessage k c s).mgt.capture = s.mgt.capture ∧ (dropMessage k c s).freeIx = s.freeIx ∧
    (dropMessage k c s).pending = s.pending := by
  unfold dropMessage
  (repeat' split) <;> simp

/-- What `messageEnd` leaves as it is. -/
@[simp] theorem messageEnd_frame (e : MessageEnd) (s : State) :
    (messageEnd e s).pins = s.pins ∧ (messageEnd e s).cleaning = s.cleaning ∧
    (messageEnd e s).breakHeld = s.breakHeld ∧ (messageEnd e s).lif = s.lif ∧ (messageEnd e s).cyc = s.cyc ∧
    (messageEnd e s).ssu = s.ssu ∧ (messageEnd e s).alc = s.alc ∧ (messageEnd e s).ras = s.ras ∧
    (messageEnd e s).trb.parser = s.trb.parser ∧ (messageEnd e s).mgt.profile = s.mgt.profile ∧
    (messageEnd e s).mgt.settings = s.mgt.settings ∧ (messageEnd e s).mgt.mask = s.mgt.mask ∧
    (messageEnd e s).mgt.refusal = s.mgt.refusal ∧ (messageEnd e s).mgt.capture = s.mgt.capture ∧
    (messageEnd e s).freeIx = s.freeIx ∧ (messageEnd e s).pending = s.pending := by
  unfold messageEnd
  (repeat' split) <;> simp

/-- What `segmentSent` leaves as it is. -/
@[simp] theorem segmentSent_frame (c : Class) (d : Descriptor) (rest : List Descriptor) (s : State) :
    (segmentSent c d rest s).pins = s.pins ∧ (segmentSent c d rest s).cleaning = s.cleaning ∧
    (segmentSent c d rest s).breakHeld = s.breakHeld ∧ (segmentSent c d rest s).lif = s.lif ∧
    (segmentSent c d rest s).cyc = s.cyc ∧ (segmentSent c d rest s).ssu = s.ssu ∧
    (segmentSent c d rest s).alc = s.alc ∧ (segmentSent c d rest s).txq.seqs = s.txq.seqs ∧
    (segmentSent c d rest s).txq.ingress = s.txq.ingress ∧ (segmentSent c d rest s).ras = s.ras ∧
    (segmentSent c d rest s).trb.parser = s.trb.parser ∧ (segmentSent c d rest s).mgt.profile = s.mgt.profile ∧
    (segmentSent c d rest s).mgt.settings = s.mgt.settings ∧ (segmentSent c d rest s).mgt.mask = s.mgt.mask ∧
    (segmentSent c d rest s).mgt.refusal = s.mgt.refusal ∧ (segmentSent c d rest s).mgt.counters = s.mgt.counters ∧
    (segmentSent c d rest s).mgt.capture = s.mgt.capture ∧ (segmentSent c d rest s).freeIx = s.freeIx ∧
    (segmentSent c d rest s).pending = s.pending := by
  unfold segmentSent
  (repeat' split) <;> simp

/-- What `frameSupplied` leaves as it is. -/
@[simp] theorem frameSupplied_frame (c : Class) (s : State) :
    (frameSupplied c s).pins = s.pins ∧ (frameSupplied c s).cleaning = s.cleaning ∧
    (frameSupplied c s).breakHeld = s.breakHeld ∧ (frameSupplied c s).lif = s.lif ∧ (frameSupplied c s).cyc = s.cyc ∧
    (frameSupplied c s).ssu = s.ssu ∧ (frameSupplied c s).alc = s.alc ∧ (frameSupplied c s).txq.seqs = s.txq.seqs ∧
    (frameSupplied c s).txq.ingress = s.txq.ingress ∧ (frameSupplied c s).ras = s.ras ∧
    (frameSupplied c s).trb.parser = s.trb.parser ∧ (frameSupplied c s).mgt.profile = s.mgt.profile ∧
    (frameSupplied c s).mgt.settings = s.mgt.settings ∧ (frameSupplied c s).mgt.mask = s.mgt.mask ∧
    (frameSupplied c s).mgt.refusal = s.mgt.refusal ∧ (frameSupplied c s).mgt.counters = s.mgt.counters ∧
    (frameSupplied c s).mgt.capture = s.mgt.capture ∧ (frameSupplied c s).freeIx = s.freeIx ∧
    (frameSupplied c s).pending = s.pending := by
  unfold frameSupplied
  (repeat' split) <;> simp

/-- What `flushQueue` leaves as it is. -/
@[simp] theorem flushQueue_frame (c : Class) (s : State) :
    (flushQueue c s).pins = s.pins ∧ (flushQueue c s).cleaning = s.cleaning ∧
    (flushQueue c s).breakHeld = s.breakHeld ∧ (flushQueue c s).lif = s.lif ∧ (flushQueue c s).cyc = s.cyc ∧
    (flushQueue c s).ssu = s.ssu ∧ (flushQueue c s).alc = s.alc ∧ (flushQueue c s).txq.seqs = s.txq.seqs ∧
    (flushQueue c s).txq.ingress = s.txq.ingress ∧ (flushQueue c s).ras = s.ras ∧
    (flushQueue c s).trb.parser = s.trb.parser ∧ (flushQueue c s).mgt.profile = s.mgt.profile ∧
    (flushQueue c s).mgt.settings = s.mgt.settings ∧ (flushQueue c s).mgt.mask = s.mgt.mask ∧
    (flushQueue c s).mgt.refusal = s.mgt.refusal ∧ (flushQueue c s).mgt.counters = s.mgt.counters ∧
    (flushQueue c s).mgt.capture = s.mgt.capture ∧ (flushQueue c s).freeIx = s.freeIx ∧
    (flushQueue c s).pending = s.pending := by
  unfold flushQueue
  simp

/-- What `endQueue` leaves as it is. -/
@[simp] theorem endQueue_frame (c : Class) (s : State) :
    (endQueue c s).pins = s.pins ∧ (endQueue c s).cleaning = s.cleaning ∧ (endQueue c s).breakHeld = s.breakHeld ∧
    (endQueue c s).lif = s.lif ∧ (endQueue c s).cyc = s.cyc ∧ (endQueue c s).ssu = s.ssu ∧
    (endQueue c s).alc = s.alc ∧ (endQueue c s).txq.seqs = s.txq.seqs ∧ (endQueue c s).ras = s.ras ∧
    (endQueue c s).trb.parser = s.trb.parser ∧ (endQueue c s).mgt.profile = s.mgt.profile ∧
    (endQueue c s).mgt.settings = s.mgt.settings ∧ (endQueue c s).mgt.mask = s.mgt.mask ∧
    (endQueue c s).mgt.refusal = s.mgt.refusal ∧ (endQueue c s).mgt.counters = s.mgt.counters ∧
    (endQueue c s).mgt.capture = s.mgt.capture ∧ (endQueue c s).freeIx = s.freeIx ∧
    (endQueue c s).pending = s.pending := by
  unfold endQueue
  simp

/-- What `txqSessionEnd` leaves as it is. -/
@[simp] theorem txqSessionEnd_frame (s : State) :
    (txqSessionEnd s).pins = s.pins ∧ (txqSessionEnd s).cleaning = s.cleaning ∧
    (txqSessionEnd s).breakHeld = s.breakHeld ∧ (txqSessionEnd s).lif = s.lif ∧ (txqSessionEnd s).cyc = s.cyc ∧
    (txqSessionEnd s).ssu = s.ssu ∧ (txqSessionEnd s).alc = s.alc ∧ (txqSessionEnd s).txq.seqs = s.txq.seqs ∧
    (txqSessionEnd s).ras = s.ras ∧ (txqSessionEnd s).trb.parser = s.trb.parser ∧
    (txqSessionEnd s).mgt.profile = s.mgt.profile ∧ (txqSessionEnd s).mgt.settings = s.mgt.settings ∧
    (txqSessionEnd s).mgt.mask = s.mgt.mask ∧ (txqSessionEnd s).mgt.refusal = s.mgt.refusal ∧
    (txqSessionEnd s).mgt.counters = s.mgt.counters ∧ (txqSessionEnd s).mgt.capture = s.mgt.capture ∧
    (txqSessionEnd s).freeIx = s.freeIx ∧ (txqSessionEnd s).pending = s.pending := by
  unfold txqSessionEnd
  simp

/-- What `loadTable` leaves as it is. -/
@[simp] theorem loadTable_frame (f : TableFrame) (s : State) :
    (loadTable f s).pins = s.pins ∧ (loadTable f s).cleaning = s.cleaning ∧ (loadTable f s).breakHeld = s.breakHeld ∧
    (loadTable f s).lif = s.lif ∧ (loadTable f s).cyc.state = s.cyc.state ∧
    (loadTable f s).cyc.haltCause = s.cyc.haltCause ∧ (loadTable f s).cyc.leavePending = s.cyc.leavePending ∧
    (loadTable f s).cyc.joinAttempt = s.cyc.joinAttempt ∧ (loadTable f s).cyc.joinCycle = s.cyc.joinCycle ∧
    (loadTable f s).cyc.outOfStep = s.cyc.outOfStep ∧ (loadTable f s).cyc.echoFault = s.cyc.echoFault ∧
    (loadTable f s).cyc.profileChecked = s.cyc.profileChecked ∧ (loadTable f s).cyc.coldStart = s.cyc.coldStart ∧
    (loadTable f s).cyc.timingLock = s.cyc.timingLock ∧ (loadTable f s).cyc.position = s.cyc.position ∧
    (loadTable f s).cyc.boundaryDue = s.cyc.boundaryDue ∧ (loadTable f s).cyc.cycleStart = s.cyc.cycleStart ∧
    (loadTable f s).cyc.annStart = s.cyc.annStart ∧ (loadTable f s).cyc.dataStart = s.cyc.dataStart ∧
    (loadTable f s).cyc.dataEnd = s.cyc.dataEnd ∧ (loadTable f s).cyc.unslottedUntil = s.cyc.unslottedUntil ∧
    (loadTable f s).cyc.fixedAt = s.cyc.fixedAt ∧ (loadTable f s).cyc.layout = s.cyc.layout ∧
    (loadTable f s).cyc.listenTimer = s.cyc.listenTimer ∧ (loadTable f s).cyc.lineLost = s.cyc.lineLost ∧
    (loadTable f s).cyc.bids = s.cyc.bids ∧ (loadTable f s).cyc.outcome = s.cyc.outcome ∧
    (loadTable f s).cyc.eligibleLast = s.cyc.eligibleLast ∧ (loadTable f s).ssu.tableOut = s.ssu.tableOut ∧
    (loadTable f s).alc = s.alc ∧ (loadTable f s).txq = s.txq ∧ (loadTable f s).dlv.lost = s.dlv.lost ∧
    (loadTable f s).trb.parser = s.trb.parser ∧ (loadTable f s).mgt.profile = s.mgt.profile ∧
    (loadTable f s).mgt.settings = s.mgt.settings ∧ (loadTable f s).mgt.events = s.mgt.events ∧
    (loadTable f s).mgt.arisen = s.mgt.arisen ∧ (loadTable f s).mgt.mask = s.mgt.mask ∧
    (loadTable f s).mgt.refusal = s.mgt.refusal ∧ (loadTable f s).mgt.capture = s.mgt.capture ∧
    (loadTable f s).pending = s.pending := by
  unfold loadTable
  simp

/-- What `takeTable` leaves as it is. -/
@[simp] theorem takeTable_frame (f : TableFrame) (s : State) :
    (takeTable f s).pins = s.pins ∧ (takeTable f s).cleaning = s.cleaning ∧ (takeTable f s).breakHeld = s.breakHeld ∧
    (takeTable f s).lif = s.lif ∧ (takeTable f s).cyc.state = s.cyc.state ∧
    (takeTable f s).cyc.haltCause = s.cyc.haltCause ∧ (takeTable f s).cyc.leavePending = s.cyc.leavePending ∧
    (takeTable f s).cyc.joinAttempt = s.cyc.joinAttempt ∧ (takeTable f s).cyc.joinCycle = s.cyc.joinCycle ∧
    (takeTable f s).cyc.outOfStep = s.cyc.outOfStep ∧ (takeTable f s).cyc.echoFault = s.cyc.echoFault ∧
    (takeTable f s).cyc.profileChecked = s.cyc.profileChecked ∧ (takeTable f s).cyc.coldStart = s.cyc.coldStart ∧
    (takeTable f s).cyc.timingLock = s.cyc.timingLock ∧ (takeTable f s).cyc.position = s.cyc.position ∧
    (takeTable f s).cyc.boundaryDue = s.cyc.boundaryDue ∧ (takeTable f s).cyc.cycleStart = s.cyc.cycleStart ∧
    (takeTable f s).cyc.annStart = s.cyc.annStart ∧ (takeTable f s).cyc.dataStart = s.cyc.dataStart ∧
    (takeTable f s).cyc.dataEnd = s.cyc.dataEnd ∧ (takeTable f s).cyc.unslottedUntil = s.cyc.unslottedUntil ∧
    (takeTable f s).cyc.fixedAt = s.cyc.fixedAt ∧ (takeTable f s).cyc.layout = s.cyc.layout ∧
    (takeTable f s).cyc.listenTimer = s.cyc.listenTimer ∧ (takeTable f s).cyc.lineLost = s.cyc.lineLost ∧
    (takeTable f s).cyc.bids = s.cyc.bids ∧ (takeTable f s).cyc.outcome = s.cyc.outcome ∧
    (takeTable f s).cyc.eligibleLast = s.cyc.eligibleLast ∧ (takeTable f s).ssu.tableOut = s.ssu.tableOut ∧
    (takeTable f s).alc = s.alc ∧ (takeTable f s).txq = s.txq ∧ (takeTable f s).dlv.lost = s.dlv.lost ∧
    (takeTable f s).trb.parser = s.trb.parser ∧ (takeTable f s).mgt.profile = s.mgt.profile ∧
    (takeTable f s).mgt.settings = s.mgt.settings ∧ (takeTable f s).mgt.events = s.mgt.events ∧
    (takeTable f s).mgt.arisen = s.mgt.arisen ∧ (takeTable f s).mgt.mask = s.mgt.mask ∧
    (takeTable f s).mgt.refusal = s.mgt.refusal ∧ (takeTable f s).mgt.capture = s.mgt.capture ∧
    (takeTable f s).pending = s.pending := by
  unfold takeTable
  (repeat' split) <;> simp

/-- What `enterState` leaves as it is. -/
@[simp] theorem enterState_frame (st : StationState) (s : State) :
    (enterState st s).pins = s.pins ∧ (enterState st s).cleaning = s.cleaning ∧
    (enterState st s).breakHeld = s.breakHeld ∧ (enterState st s).lif = s.lif ∧
    (enterState st s).cyc.haltCause = s.cyc.haltCause ∧ (enterState st s).cyc.leavePending = s.cyc.leavePending ∧
    (enterState st s).cyc.joinAttempt = s.cyc.joinAttempt ∧ (enterState st s).cyc.joinCycle = s.cyc.joinCycle ∧
    (enterState st s).cyc.outOfStep = s.cyc.outOfStep ∧ (enterState st s).cyc.echoFault = s.cyc.echoFault ∧
    (enterState st s).cyc.profileChecked = s.cyc.profileChecked ∧ (enterState st s).cyc.coldStart = s.cyc.coldStart ∧
    (enterState st s).cyc.pendingLoad = s.cyc.pendingLoad ∧ (enterState st s).cyc.timingLock = s.cyc.timingLock ∧
    (enterState st s).cyc.position = s.cyc.position ∧ (enterState st s).cyc.boundaryDue = s.cyc.boundaryDue ∧
    (enterState st s).cyc.cycleStart = s.cyc.cycleStart ∧ (enterState st s).cyc.annStart = s.cyc.annStart ∧
    (enterState st s).cyc.dataStart = s.cyc.dataStart ∧ (enterState st s).cyc.dataEnd = s.cyc.dataEnd ∧
    (enterState st s).cyc.unslottedUntil = s.cyc.unslottedUntil ∧ (enterState st s).cyc.fixedAt = s.cyc.fixedAt ∧
    (enterState st s).cyc.layout = s.cyc.layout ∧ (enterState st s).cyc.listenTimer = s.cyc.listenTimer ∧
    (enterState st s).cyc.lineLost = s.cyc.lineLost ∧ (enterState st s).cyc.bids = s.cyc.bids ∧
    (enterState st s).cyc.outcome = s.cyc.outcome ∧ (enterState st s).cyc.eligibleLast = s.cyc.eligibleLast ∧
    (enterState st s).ssu = s.ssu ∧ (enterState st s).alc = s.alc ∧ (enterState st s).txq = s.txq ∧
    (enterState st s).ras = s.ras ∧ (enterState st s).dlv = s.dlv ∧ (enterState st s).trb = s.trb ∧
    (enterState st s).mgt.profile = s.mgt.profile ∧ (enterState st s).mgt.settings = s.mgt.settings ∧
    (enterState st s).mgt.mask = s.mgt.mask ∧ (enterState st s).mgt.refusal = s.mgt.refusal ∧
    (enterState st s).mgt.counters = s.mgt.counters ∧ (enterState st s).mgt.capture = s.mgt.capture ∧
    (enterState st s).freeIx = s.freeIx ∧ (enterState st s).pending = s.pending := by
  unfold enterState
  (repeat' split) <;> simp

/-- What `forgetEcho` leaves as it is. -/
@[simp] theorem forgetEcho_frame (s : State) :
    (forgetEcho s).pins = s.pins ∧ (forgetEcho s).cleaning = s.cleaning ∧ (forgetEcho s).breakHeld = s.breakHeld ∧
    (forgetEcho s).lif.receiver = s.lif.receiver ∧ (forgetEcho s).lif.receiverSince = s.lif.receiverSince ∧
    (forgetEcho s).lif.tx = s.lif.tx ∧ (forgetEcho s).lif.carriers = s.lif.carriers ∧ (forgetEcho s).cyc = s.cyc ∧
    (forgetEcho s).ssu = s.ssu ∧ (forgetEcho s).alc = s.alc ∧ (forgetEcho s).txq = s.txq ∧
    (forgetEcho s).ras = s.ras ∧ (forgetEcho s).dlv = s.dlv ∧ (forgetEcho s).trb = s.trb ∧
    (forgetEcho s).mgt = s.mgt ∧ (forgetEcho s).freeIx = s.freeIx ∧ (forgetEcho s).pending = s.pending := by
  unfold forgetEcho
  (repeat' split) <;> simp

/-- What `stopReceiver` leaves as it is. -/
@[simp] theorem stopReceiver_frame (s : State) :
    (stopReceiver s).pins = s.pins ∧ (stopReceiver s).cleaning = s.cleaning ∧
    (stopReceiver s).breakHeld = s.breakHeld ∧ (stopReceiver s).lif.tx = s.lif.tx ∧ (stopReceiver s).cyc = s.cyc ∧
    (stopReceiver s).ssu = s.ssu ∧ (stopReceiver s).alc = s.alc ∧ (stopReceiver s).txq = s.txq ∧
    (stopReceiver s).ras = s.ras ∧ (stopReceiver s).dlv = s.dlv ∧ (stopReceiver s).trb = s.trb ∧
    (stopReceiver s).mgt = s.mgt ∧ (stopReceiver s).freeIx = s.freeIx ∧ (stopReceiver s).pending = s.pending := by
  unfold stopReceiver
  (repeat' split) <;> simp

/-- What `endQueues` leaves as it is. -/
@[simp] theorem endQueues_frame (s : State) :
    (endQueues s).pins = s.pins ∧ (endQueues s).cleaning = s.cleaning ∧ (endQueues s).breakHeld = s.breakHeld ∧
    (endQueues s).lif = s.lif ∧ (endQueues s).cyc = s.cyc ∧ (endQueues s).ssu = s.ssu ∧ (endQueues s).alc = s.alc ∧
    (endQueues s).txq.seqs = s.txq.seqs ∧ (endQueues s).trb.parser = s.trb.parser ∧
    (endQueues s).mgt.profile = s.mgt.profile ∧ (endQueues s).mgt.settings = s.mgt.settings ∧
    (endQueues s).mgt.mask = s.mgt.mask ∧ (endQueues s).mgt.refusal = s.mgt.refusal ∧
    (endQueues s).mgt.capture = s.mgt.capture ∧ (endQueues s).pending = s.pending := by
  unfold endQueues
  (repeat' split) <;> simp

/-- What `endSession` leaves as it is. -/
@[simp] theorem endSession_frame (s : State) :
    (endSession s).pins = s.pins ∧ (endSession s).cleaning = s.cleaning ∧ (endSession s).breakHeld = s.breakHeld ∧
    (endSession s).lif.tx = s.lif.tx ∧ (endSession s).cyc.state = s.cyc.state ∧
    (endSession s).cyc.haltCause = s.cyc.haltCause ∧ (endSession s).cyc.joinAttempt = s.cyc.joinAttempt ∧
    (endSession s).cyc.profileChecked = s.cyc.profileChecked ∧ (endSession s).txq.seqs = s.txq.seqs ∧
    (endSession s).trb.parser = s.trb.parser ∧ (endSession s).mgt.profile = s.mgt.profile ∧
    (endSession s).mgt.settings = s.mgt.settings ∧ (endSession s).mgt.mask = s.mgt.mask ∧
    (endSession s).mgt.refusal = s.mgt.refusal ∧ (endSession s).mgt.capture = s.mgt.capture ∧
    (endSession s).pending = s.pending := by
  unfold endSession
  simp [endCyc]

/-- What `enterStopped` leaves as it is. -/
@[simp] theorem enterStopped_frame (s : State) :
    (enterStopped s).pins = s.pins ∧ (enterStopped s).cleaning = s.cleaning ∧
    (enterStopped s).breakHeld = s.breakHeld ∧ (enterStopped s).lif.tx = s.lif.tx ∧
    (enterStopped s).cyc.haltCause = s.cyc.haltCause ∧ (enterStopped s).cyc.joinAttempt = s.cyc.joinAttempt ∧
    (enterStopped s).cyc.profileChecked = s.cyc.profileChecked ∧ (enterStopped s).txq.seqs = s.txq.seqs ∧
    (enterStopped s).trb.parser = s.trb.parser ∧ (enterStopped s).mgt.profile = s.mgt.profile ∧
    (enterStopped s).mgt.settings = s.mgt.settings ∧ (enterStopped s).mgt.mask = s.mgt.mask ∧
    (enterStopped s).mgt.refusal = s.mgt.refusal ∧ (enterStopped s).mgt.capture = s.mgt.capture ∧
    (enterStopped s).pending = s.pending := by
  unfold enterStopped
  simp

/-- What `enterHalted` leaves as it is. -/
@[simp] theorem enterHalted_frame (h : HaltCause) (s : State) :
    (enterHalted h s).pins = s.pins ∧ (enterHalted h s).cleaning = s.cleaning ∧
    (enterHalted h s).breakHeld = s.breakHeld ∧ (enterHalted h s).lif.tx = s.lif.tx ∧
    (enterHalted h s).cyc.joinAttempt = s.cyc.joinAttempt ∧
    (enterHalted h s).cyc.profileChecked = s.cyc.profileChecked ∧ (enterHalted h s).txq.seqs = s.txq.seqs ∧
    (enterHalted h s).trb.parser = s.trb.parser ∧ (enterHalted h s).mgt.profile = s.mgt.profile ∧
    (enterHalted h s).mgt.settings = s.mgt.settings ∧ (enterHalted h s).mgt.mask = s.mgt.mask ∧
    (enterHalted h s).mgt.refusal = s.mgt.refusal ∧ (enterHalted h s).mgt.capture = s.mgt.capture ∧
    (enterHalted h s).pending = s.pending := by
  unfold enterHalted
  dsimp only
  (repeat' split) <;> simp

/-- Enabling the receiver leaves the transmitter and the carriers heard. -/
@[simp] theorem enableReceiver_frame (t : Time) (l : Lif) :
    (enableReceiver t l).tx = l.tx ∧ (enableReceiver t l).echo = l.echo ∧
    (enableReceiver t l).startEcho = l.startEcho ∧
    (enableReceiver t l).carriers = l.carriers := by
  unfold enableReceiver
  split <;> simp

/-- What `enterListen` leaves as it is. -/
@[simp] theorem enterListen_frame (t : Time) (s : State) :
    (enterListen t s).pins = s.pins ∧ (enterListen t s).cleaning = s.cleaning ∧
    (enterListen t s).breakHeld = s.breakHeld ∧ (enterListen t s).lif.tx = s.lif.tx ∧
    (enterListen t s).cyc.haltCause = s.cyc.haltCause ∧ (enterListen t s).cyc.joinAttempt = s.cyc.joinAttempt ∧
    (enterListen t s).txq.seqs = s.txq.seqs ∧ (enterListen t s).trb.parser = s.trb.parser ∧
    (enterListen t s).mgt.profile = s.mgt.profile ∧ (enterListen t s).mgt.settings = s.mgt.settings ∧
    (enterListen t s).mgt.mask = s.mgt.mask ∧ (enterListen t s).mgt.refusal = s.mgt.refusal ∧
    (enterListen t s).mgt.capture = s.mgt.capture ∧ (enterListen t s).pending = s.pending := by
  unfold enterListen
  dsimp only
  (repeat' split) <;> simp [listenCyc]

/-- What `enterInStep` leaves as it is. -/
@[simp] theorem enterInStep_frame (s : State) :
    (enterInStep s).pins = s.pins ∧ (enterInStep s).cleaning = s.cleaning ∧ (enterInStep s).breakHeld = s.breakHeld ∧
    (enterInStep s).lif = s.lif ∧ (enterInStep s).cyc.haltCause = s.cyc.haltCause ∧
    (enterInStep s).cyc.leavePending = s.cyc.leavePending ∧ (enterInStep s).cyc.joinCycle = s.cyc.joinCycle ∧
    (enterInStep s).cyc.outOfStep = s.cyc.outOfStep ∧ (enterInStep s).cyc.echoFault = s.cyc.echoFault ∧
    (enterInStep s).cyc.profileChecked = s.cyc.profileChecked ∧ (enterInStep s).cyc.coldStart = s.cyc.coldStart ∧
    (enterInStep s).cyc.pendingLoad = s.cyc.pendingLoad ∧ (enterInStep s).cyc.timingLock = s.cyc.timingLock ∧
    (enterInStep s).cyc.position = s.cyc.position ∧ (enterInStep s).cyc.boundaryDue = s.cyc.boundaryDue ∧
    (enterInStep s).cyc.cycleStart = s.cyc.cycleStart ∧ (enterInStep s).cyc.annStart = s.cyc.annStart ∧
    (enterInStep s).cyc.dataStart = s.cyc.dataStart ∧ (enterInStep s).cyc.dataEnd = s.cyc.dataEnd ∧
    (enterInStep s).cyc.unslottedUntil = s.cyc.unslottedUntil ∧ (enterInStep s).cyc.fixedAt = s.cyc.fixedAt ∧
    (enterInStep s).cyc.layout = s.cyc.layout ∧ (enterInStep s).cyc.listenTimer = s.cyc.listenTimer ∧
    (enterInStep s).cyc.lineLost = s.cyc.lineLost ∧ (enterInStep s).cyc.bids = s.cyc.bids ∧
    (enterInStep s).cyc.outcome = s.cyc.outcome ∧ (enterInStep s).cyc.eligibleLast = s.cyc.eligibleLast ∧
    (enterInStep s).ssu = s.ssu ∧ (enterInStep s).alc = s.alc ∧ (enterInStep s).txq = s.txq ∧
    (enterInStep s).ras = s.ras ∧ (enterInStep s).dlv = s.dlv ∧ (enterInStep s).trb = s.trb ∧
    (enterInStep s).mgt.profile = s.mgt.profile ∧ (enterInStep s).mgt.settings = s.mgt.settings ∧
    (enterInStep s).mgt.mask = s.mgt.mask ∧ (enterInStep s).mgt.refusal = s.mgt.refusal ∧
    (enterInStep s).mgt.counters = s.mgt.counters ∧ (enterInStep s).mgt.capture = s.mgt.capture ∧
    (enterInStep s).freeIx = s.freeIx ∧ (enterInStep s).pending = s.pending := by
  unfold enterInStep
  simp

/-- What `stepLoss` leaves as it is. -/
@[simp] theorem stepLoss_frame (t : Time) (s : State) :
    (stepLoss t s).pins = s.pins ∧ (stepLoss t s).cleaning = s.cleaning ∧ (stepLoss t s).breakHeld = s.breakHeld ∧
    (stepLoss t s).lif.tx = s.lif.tx ∧ (stepLoss t s).cyc.haltCause = s.cyc.haltCause ∧
    (stepLoss t s).cyc.joinAttempt = s.cyc.joinAttempt ∧ (stepLoss t s).txq.seqs = s.txq.seqs ∧
    (stepLoss t s).trb.parser = s.trb.parser ∧ (stepLoss t s).mgt.profile = s.mgt.profile ∧
    (stepLoss t s).mgt.settings = s.mgt.settings ∧ (stepLoss t s).mgt.mask = s.mgt.mask ∧
    (stepLoss t s).mgt.refusal = s.mgt.refusal ∧ (stepLoss t s).mgt.capture = s.mgt.capture ∧
    (stepLoss t s).pending = s.pending := by
  unfold stepLoss
  simp

/-- What `enterBid` leaves as it is. -/
@[simp] theorem enterBid_frame (k : Nat) (own : Bool) (f : BidFrame) (s : State) :
    (enterBid k own f s).pins = s.pins ∧ (enterBid k own f s).cleaning = s.cleaning ∧
    (enterBid k own f s).breakHeld = s.breakHeld ∧ (enterBid k own f s).lif = s.lif ∧
    (enterBid k own f s).cyc.state = s.cyc.state ∧ (enterBid k own f s).cyc.haltCause = s.cyc.haltCause ∧
    (enterBid k own f s).cyc.leavePending = s.cyc.leavePending ∧
    (enterBid k own f s).cyc.joinAttempt = s.cyc.joinAttempt ∧ (enterBid k own f s).cyc.joinCycle = s.cyc.joinCycle ∧
    (enterBid k own f s).cyc.outOfStep = s.cyc.outOfStep ∧ (enterBid k own f s).cyc.echoFault = s.cyc.echoFault ∧
    (enterBid k own f s).cyc.profileChecked = s.cyc.profileChecked ∧
    (enterBid k own f s).cyc.coldStart = s.cyc.coldStart ∧ (enterBid k own f s).cyc.pendingLoad = s.cyc.pendingLoad ∧
    (enterBid k own f s).cyc.timingLock = s.cyc.timingLock ∧ (enterBid k own f s).cyc.position = s.cyc.position ∧
    (enterBid k own f s).cyc.boundaryDue = s.cyc.boundaryDue ∧
    (enterBid k own f s).cyc.cycleStart = s.cyc.cycleStart ∧ (enterBid k own f s).cyc.annStart = s.cyc.annStart ∧
    (enterBid k own f s).cyc.dataStart = s.cyc.dataStart ∧ (enterBid k own f s).cyc.dataEnd = s.cyc.dataEnd ∧
    (enterBid k own f s).cyc.unslottedUntil = s.cyc.unslottedUntil ∧
    (enterBid k own f s).cyc.fixedAt = s.cyc.fixedAt ∧ (enterBid k own f s).cyc.layout = s.cyc.layout ∧
    (enterBid k own f s).cyc.listenTimer = s.cyc.listenTimer ∧ (enterBid k own f s).cyc.lineLost = s.cyc.lineLost ∧
    (enterBid k own f s).cyc.outcome = s.cyc.outcome ∧ (enterBid k own f s).cyc.eligibleLast = s.cyc.eligibleLast ∧
    (enterBid k own f s).ssu = s.ssu ∧ (enterBid k own f s).alc = s.alc ∧ (enterBid k own f s).txq = s.txq ∧
    (enterBid k own f s).ras = s.ras ∧ (enterBid k own f s).dlv = s.dlv ∧ (enterBid k own f s).trb = s.trb ∧
    (enterBid k own f s).mgt.profile = s.mgt.profile ∧ (enterBid k own f s).mgt.settings = s.mgt.settings ∧
    (enterBid k own f s).mgt.events = s.mgt.events ∧ (enterBid k own f s).mgt.arisen = s.mgt.arisen ∧
    (enterBid k own f s).mgt.mask = s.mgt.mask ∧ (enterBid k own f s).mgt.refusal = s.mgt.refusal ∧
    (enterBid k own f s).mgt.capture = s.mgt.capture ∧ (enterBid k own f s).freeIx = s.freeIx ∧
    (enterBid k own f s).pending = s.pending := by
  unfold enterBid
  (repeat' split) <;> simp

/-- What `goBlind` leaves as it is. -/
@[simp] theorem goBlind_frame (s : State) :
    (goBlind s).pins = s.pins ∧ (goBlind s).cleaning = s.cleaning ∧ (goBlind s).breakHeld = s.breakHeld ∧
    (goBlind s).lif = s.lif ∧ (goBlind s).cyc.haltCause = s.cyc.haltCause ∧
    (goBlind s).cyc.leavePending = s.cyc.leavePending ∧ (goBlind s).cyc.joinAttempt = s.cyc.joinAttempt ∧
    (goBlind s).cyc.joinCycle = s.cyc.joinCycle ∧ (goBlind s).cyc.outOfStep = s.cyc.outOfStep ∧
    (goBlind s).cyc.echoFault = s.cyc.echoFault ∧ (goBlind s).cyc.profileChecked = s.cyc.profileChecked ∧
    (goBlind s).cyc.coldStart = s.cyc.coldStart ∧ (goBlind s).cyc.pendingLoad = s.cyc.pendingLoad ∧
    (goBlind s).cyc.timingLock = s.cyc.timingLock ∧ (goBlind s).cyc.position = s.cyc.position ∧
    (goBlind s).cyc.boundaryDue = s.cyc.boundaryDue ∧ (goBlind s).cyc.cycleStart = s.cyc.cycleStart ∧
    (goBlind s).cyc.annStart = s.cyc.annStart ∧ (goBlind s).cyc.dataStart = s.cyc.dataStart ∧
    (goBlind s).cyc.dataEnd = s.cyc.dataEnd ∧ (goBlind s).cyc.unslottedUntil = s.cyc.unslottedUntil ∧
    (goBlind s).cyc.fixedAt = s.cyc.fixedAt ∧ (goBlind s).cyc.layout = s.cyc.layout ∧
    (goBlind s).cyc.listenTimer = s.cyc.listenTimer ∧ (goBlind s).cyc.lineLost = s.cyc.lineLost ∧
    (goBlind s).cyc.bids = s.cyc.bids ∧ (goBlind s).cyc.outcome = s.cyc.outcome ∧
    (goBlind s).cyc.eligibleLast = s.cyc.eligibleLast ∧ (goBlind s).ssu = s.ssu ∧ (goBlind s).alc = s.alc ∧
    (goBlind s).txq = s.txq ∧ (goBlind s).ras = s.ras ∧ (goBlind s).dlv = s.dlv ∧ (goBlind s).trb = s.trb ∧
    (goBlind s).mgt.profile = s.mgt.profile ∧ (goBlind s).mgt.settings = s.mgt.settings ∧
    (goBlind s).mgt.mask = s.mgt.mask ∧ (goBlind s).mgt.refusal = s.mgt.refusal ∧
    (goBlind s).mgt.capture = s.mgt.capture ∧ (goBlind s).freeIx = s.freeIx ∧ (goBlind s).pending = s.pending := by
  unfold goBlind
  (repeat' split) <;> simp

/-- What `commit` leaves as it is. -/
@[simp] theorem commit_frame (o : Announcement) (s : State) :
    (commit o s).pins = s.pins ∧ (commit o s).cleaning = s.cleaning ∧ (commit o s).breakHeld = s.breakHeld ∧
    (commit o s).lif = s.lif ∧ (commit o s).cyc = s.cyc ∧ (commit o s).txq = s.txq ∧
    (commit o s).dlv.lost = s.dlv.lost ∧ (commit o s).trb.parser = s.trb.parser ∧
    (commit o s).mgt.profile = s.mgt.profile ∧ (commit o s).mgt.settings = s.mgt.settings ∧
    (commit o s).mgt.events = s.mgt.events ∧ (commit o s).mgt.arisen = s.mgt.arisen ∧
    (commit o s).mgt.mask = s.mgt.mask ∧ (commit o s).mgt.refusal = s.mgt.refusal ∧
    (commit o s).mgt.capture = s.mgt.capture ∧ (commit o s).pending = s.pending := by
  unfold commit
  dsimp only
  (repeat' split) <;> simp

/-- What `verdict` leaves as it is. -/
@[simp] theorem verdict_frame (o : Announcement) (s : State) :
    (verdict o s).pins = s.pins ∧ (verdict o s).cleaning = s.cleaning ∧ (verdict o s).breakHeld = s.breakHeld ∧
    (verdict o s).lif = s.lif ∧ (verdict o s).cyc.haltCause = s.cyc.haltCause ∧
    (verdict o s).cyc.leavePending = s.cyc.leavePending ∧ (verdict o s).cyc.joinCycle = s.cyc.joinCycle ∧
    (verdict o s).cyc.echoFault = s.cyc.echoFault ∧ (verdict o s).cyc.profileChecked = s.cyc.profileChecked ∧
    (verdict o s).cyc.coldStart = s.cyc.coldStart ∧ (verdict o s).cyc.pendingLoad = s.cyc.pendingLoad ∧
    (verdict o s).cyc.timingLock = s.cyc.timingLock ∧ (verdict o s).cyc.position = s.cyc.position ∧
    (verdict o s).cyc.boundaryDue = s.cyc.boundaryDue ∧ (verdict o s).cyc.cycleStart = s.cyc.cycleStart ∧
    (verdict o s).cyc.annStart = s.cyc.annStart ∧ (verdict o s).cyc.dataStart = s.cyc.dataStart ∧
    (verdict o s).cyc.dataEnd = s.cyc.dataEnd ∧ (verdict o s).cyc.unslottedUntil = s.cyc.unslottedUntil ∧
    (verdict o s).cyc.fixedAt = s.cyc.fixedAt ∧ (verdict o s).cyc.layout = s.cyc.layout ∧
    (verdict o s).cyc.listenTimer = s.cyc.listenTimer ∧ (verdict o s).cyc.lineLost = s.cyc.lineLost ∧
    (verdict o s).cyc.bids = s.cyc.bids ∧ (verdict o s).cyc.eligibleLast = s.cyc.eligibleLast ∧
    (verdict o s).txq = s.txq ∧ (verdict o s).dlv.lost = s.dlv.lost ∧ (verdict o s).trb.parser = s.trb.parser ∧
    (verdict o s).mgt.profile = s.mgt.profile ∧ (verdict o s).mgt.settings = s.mgt.settings ∧
    (verdict o s).mgt.mask = s.mgt.mask ∧ (verdict o s).mgt.refusal = s.mgt.refusal ∧
    (verdict o s).mgt.capture = s.mgt.capture ∧ (verdict o s).pending = s.pending := by
  unfold verdict
  dsimp only
  (repeat' split) <;> simp

/-- What `fixDataPhase` leaves as it is. -/
@[simp] theorem fixDataPhase_frame (t : Time) (s : State) :
    (fixDataPhase t s).pins = s.pins ∧ (fixDataPhase t s).cleaning = s.cleaning ∧
    (fixDataPhase t s).breakHeld = s.breakHeld ∧ (fixDataPhase t s).lif = s.lif ∧
    (fixDataPhase t s).cyc.state = s.cyc.state ∧ (fixDataPhase t s).cyc.haltCause = s.cyc.haltCause ∧
    (fixDataPhase t s).cyc.leavePending = s.cyc.leavePending ∧
    (fixDataPhase t s).cyc.joinAttempt = s.cyc.joinAttempt ∧ (fixDataPhase t s).cyc.joinCycle = s.cyc.joinCycle ∧
    (fixDataPhase t s).cyc.outOfStep = s.cyc.outOfStep ∧ (fixDataPhase t s).cyc.echoFault = s.cyc.echoFault ∧
    (fixDataPhase t s).cyc.profileChecked = s.cyc.profileChecked ∧
    (fixDataPhase t s).cyc.coldStart = s.cyc.coldStart ∧ (fixDataPhase t s).cyc.pendingLoad = s.cyc.pendingLoad ∧
    (fixDataPhase t s).cyc.timingLock = s.cyc.timingLock ∧
    (fixDataPhase t s).cyc.unslottedUntil = s.cyc.unslottedUntil ∧ (fixDataPhase t s).cyc.fixedAt = s.cyc.fixedAt ∧
    (fixDataPhase t s).cyc.listenTimer = s.cyc.listenTimer ∧ (fixDataPhase t s).cyc.lineLost = s.cyc.lineLost ∧
    (fixDataPhase t s).cyc.bids = s.cyc.bids ∧ (fixDataPhase t s).cyc.outcome = s.cyc.outcome ∧
    (fixDataPhase t s).cyc.eligibleLast = s.cyc.eligibleLast ∧ (fixDataPhase t s).ssu = s.ssu ∧
    (fixDataPhase t s).alc = s.alc ∧ (fixDataPhase t s).txq = s.txq ∧ (fixDataPhase t s).ras = s.ras ∧
    (fixDataPhase t s).dlv = s.dlv ∧ (fixDataPhase t s).trb = s.trb ∧ (fixDataPhase t s).mgt = s.mgt ∧
    (fixDataPhase t s).freeIx = s.freeIx ∧ (fixDataPhase t s).pending = s.pending := by
  unfold fixDataPhase
  (repeat' split) <;> simp

/-- What `enterJoining` leaves as it is. -/
@[simp] theorem enterJoining_frame (s : State) :
    (enterJoining s).pins = s.pins ∧ (enterJoining s).cleaning = s.cleaning ∧
    (enterJoining s).breakHeld = s.breakHeld ∧ (enterJoining s).lif = s.lif ∧
    (enterJoining s).cyc.haltCause = s.cyc.haltCause ∧ (enterJoining s).cyc.leavePending = s.cyc.leavePending ∧
    (enterJoining s).cyc.joinAttempt = s.cyc.joinAttempt ∧ (enterJoining s).cyc.outOfStep = s.cyc.outOfStep ∧
    (enterJoining s).cyc.echoFault = s.cyc.echoFault ∧ (enterJoining s).cyc.profileChecked = s.cyc.profileChecked ∧
    (enterJoining s).cyc.coldStart = s.cyc.coldStart ∧ (enterJoining s).cyc.pendingLoad = s.cyc.pendingLoad ∧
    (enterJoining s).cyc.timingLock = s.cyc.timingLock ∧ (enterJoining s).cyc.position = s.cyc.position ∧
    (enterJoining s).cyc.boundaryDue = s.cyc.boundaryDue ∧ (enterJoining s).cyc.cycleStart = s.cyc.cycleStart ∧
    (enterJoining s).cyc.annStart = s.cyc.annStart ∧ (enterJoining s).cyc.dataStart = s.cyc.dataStart ∧
    (enterJoining s).cyc.dataEnd = s.cyc.dataEnd ∧ (enterJoining s).cyc.unslottedUntil = s.cyc.unslottedUntil ∧
    (enterJoining s).cyc.fixedAt = s.cyc.fixedAt ∧ (enterJoining s).cyc.layout = s.cyc.layout ∧
    (enterJoining s).cyc.lineLost = s.cyc.lineLost ∧ (enterJoining s).cyc.bids = s.cyc.bids ∧
    (enterJoining s).cyc.outcome = s.cyc.outcome ∧ (enterJoining s).cyc.eligibleLast = s.cyc.eligibleLast ∧
    (enterJoining s).ssu = s.ssu ∧ (enterJoining s).alc = s.alc ∧ (enterJoining s).txq = s.txq ∧
    (enterJoining s).ras = s.ras ∧ (enterJoining s).dlv = s.dlv ∧ (enterJoining s).trb = s.trb ∧
    (enterJoining s).mgt.profile = s.mgt.profile ∧ (enterJoining s).mgt.settings = s.mgt.settings ∧
    (enterJoining s).mgt.mask = s.mgt.mask ∧ (enterJoining s).mgt.refusal = s.mgt.refusal ∧
    (enterJoining s).mgt.counters = s.mgt.counters ∧ (enterJoining s).mgt.capture = s.mgt.capture ∧
    (enterJoining s).freeIx = s.freeIx ∧ (enterJoining s).pending = s.pending := by
  unfold enterJoining
  simp

/-- What `endAnnouncement` leaves as it is. -/
@[simp] theorem endAnnouncement_frame (t : Time) (s : State) :
    (endAnnouncement t s).pins = s.pins ∧ (endAnnouncement t s).cleaning = s.cleaning ∧
    (endAnnouncement t s).breakHeld = s.breakHeld ∧ (endAnnouncement t s).lif = s.lif ∧
    (endAnnouncement t s).cyc.haltCause = s.cyc.haltCause ∧
    (endAnnouncement t s).cyc.leavePending = s.cyc.leavePending ∧
    (endAnnouncement t s).cyc.echoFault = s.cyc.echoFault ∧
    (endAnnouncement t s).cyc.profileChecked = s.cyc.profileChecked ∧
    (endAnnouncement t s).cyc.coldStart = s.cyc.coldStart ∧
    (endAnnouncement t s).cyc.pendingLoad = s.cyc.pendingLoad ∧
    (endAnnouncement t s).cyc.timingLock = s.cyc.timingLock ∧
    (endAnnouncement t s).cyc.unslottedUntil = s.cyc.unslottedUntil ∧
    (endAnnouncement t s).cyc.fixedAt = s.cyc.fixedAt ∧ (endAnnouncement t s).cyc.lineLost = s.cyc.lineLost ∧
    (endAnnouncement t s).cyc.bids = s.cyc.bids ∧ (endAnnouncement t s).cyc.eligibleLast = s.cyc.eligibleLast ∧
    (endAnnouncement t s).txq = s.txq ∧ (endAnnouncement t s).dlv.lost = s.dlv.lost ∧
    (endAnnouncement t s).trb.parser = s.trb.parser ∧ (endAnnouncement t s).mgt.profile = s.mgt.profile ∧
    (endAnnouncement t s).mgt.settings = s.mgt.settings ∧ (endAnnouncement t s).mgt.mask = s.mgt.mask ∧
    (endAnnouncement t s).mgt.refusal = s.mgt.refusal ∧ (endAnnouncement t s).mgt.capture = s.mgt.capture ∧
    (endAnnouncement t s).pending = s.pending := by
  unfold endAnnouncement
  dsimp only
  (repeat' split) <;> simp

/-- What `abandonEcho` leaves as it is. -/
@[simp] theorem abandonEcho_frame (s : State) :
    (abandonEcho s).pins = s.pins ∧ (abandonEcho s).cleaning = s.cleaning ∧ (abandonEcho s).breakHeld = s.breakHeld ∧
    (abandonEcho s).lif.receiver = s.lif.receiver ∧ (abandonEcho s).lif.receiverSince = s.lif.receiverSince ∧
    (abandonEcho s).lif.tx = s.lif.tx ∧ (abandonEcho s).lif.startEcho = s.lif.startEcho ∧
    (abandonEcho s).lif.carriers = s.lif.carriers ∧ (abandonEcho s).cyc = s.cyc ∧ (abandonEcho s).ssu = s.ssu ∧
    (abandonEcho s).alc = s.alc ∧ (abandonEcho s).txq = s.txq ∧ (abandonEcho s).ras = s.ras ∧
    (abandonEcho s).dlv = s.dlv ∧ (abandonEcho s).trb = s.trb ∧ (abandonEcho s).mgt = s.mgt ∧
    (abandonEcho s).freeIx = s.freeIx ∧ (abandonEcho s).pending = s.pending := by
  unfold abandonEcho
  (repeat' split) <;> simp

end Sys2Proof.Machine
end

