-- ==== Sys2Proof/Laws/LineFrames.lean ====
section
/-! SUPPORT. What the operations of the line, of the ingress parser and of the management port leave as it is. -/

namespace Sys2Proof.Machine

/-- What `boundaryStep.settleMember` leaves as it is. -/
@[simp] theorem boundaryStep.settleMember_frame (s : State) :
    (boundaryStep.settleMember s).pins = s.pins ∧ (boundaryStep.settleMember s).cleaning = s.cleaning ∧
    (boundaryStep.settleMember s).breakHeld = s.breakHeld ∧ (boundaryStep.settleMember s).lif = s.lif ∧
    (boundaryStep.settleMember s).ssu = s.ssu ∧ (boundaryStep.settleMember s).alc = s.alc ∧
    (boundaryStep.settleMember s).txq = s.txq ∧ (boundaryStep.settleMember s).ras = s.ras ∧
    (boundaryStep.settleMember s).dlv = s.dlv ∧ (boundaryStep.settleMember s).trb = s.trb ∧
    (boundaryStep.settleMember s).mgt.profile = s.mgt.profile ∧
    (boundaryStep.settleMember s).mgt.settings = s.mgt.settings ∧
    (boundaryStep.settleMember s).mgt.mask = s.mgt.mask ∧ (boundaryStep.settleMember s).mgt.refusal = s.mgt.refusal ∧
    (boundaryStep.settleMember s).mgt.counters = s.mgt.counters ∧
    (boundaryStep.settleMember s).mgt.capture = s.mgt.capture ∧ (boundaryStep.settleMember s).freeIx = s.freeIx ∧
    (boundaryStep.settleMember s).pending = s.pending := by
  unfold boundaryStep.settleMember
  simp

/-- What `boundaryStep.settleNotMember` leaves as it is. -/
@[simp] theorem boundaryStep.settleNotMember_frame (s : State) :
    (boundaryStep.settleNotMember s).pins = s.pins ∧ (boundaryStep.settleNotMember s).cleaning = s.cleaning ∧
    (boundaryStep.settleNotMember s).breakHeld = s.breakHeld ∧ (boundaryStep.settleNotMember s).lif = s.lif ∧
    (boundaryStep.settleNotMember s).ssu = s.ssu ∧ (boundaryStep.settleNotMember s).alc = s.alc ∧
    (boundaryStep.settleNotMember s).txq = s.txq ∧ (boundaryStep.settleNotMember s).ras = s.ras ∧
    (boundaryStep.settleNotMember s).dlv = s.dlv ∧ (boundaryStep.settleNotMember s).trb = s.trb ∧
    (boundaryStep.settleNotMember s).mgt.profile = s.mgt.profile ∧
    (boundaryStep.settleNotMember s).mgt.settings = s.mgt.settings ∧
    (boundaryStep.settleNotMember s).mgt.mask = s.mgt.mask ∧
    (boundaryStep.settleNotMember s).mgt.refusal = s.mgt.refusal ∧
    (boundaryStep.settleNotMember s).mgt.counters = s.mgt.counters ∧
    (boundaryStep.settleNotMember s).mgt.capture = s.mgt.capture ∧
    (boundaryStep.settleNotMember s).freeIx = s.freeIx ∧ (boundaryStep.settleNotMember s).pending = s.pending := by
  unfold boundaryStep.settleNotMember
  simp

/-- What `boundaryStep.joinCycleEnds` leaves as it is. -/
@[simp] theorem boundaryStep.joinCycleEnds_frame (t : Time) (s : State) :
    (boundaryStep.joinCycleEnds t s).pins = s.pins ∧ (boundaryStep.joinCycleEnds t s).cleaning = s.cleaning ∧
    (boundaryStep.joinCycleEnds t s).breakHeld = s.breakHeld ∧ (boundaryStep.joinCycleEnds t s).lif.tx = s.lif.tx ∧
    (boundaryStep.joinCycleEnds t s).txq.seqs = s.txq.seqs ∧
    (boundaryStep.joinCycleEnds t s).trb.parser = s.trb.parser ∧
    (boundaryStep.joinCycleEnds t s).mgt.profile = s.mgt.profile ∧
    (boundaryStep.joinCycleEnds t s).mgt.settings = s.mgt.settings ∧
    (boundaryStep.joinCycleEnds t s).mgt.mask = s.mgt.mask ∧
    (boundaryStep.joinCycleEnds t s).mgt.refusal = s.mgt.refusal ∧
    (boundaryStep.joinCycleEnds t s).mgt.capture = s.mgt.capture ∧
    (boundaryStep.joinCycleEnds t s).pending = s.pending := by
  unfold boundaryStep.joinCycleEnds
  dsimp only
  (repeat' split) <;> simp

/-- What `boundaryStep` leaves as it is. -/
@[simp] theorem boundaryStep_frame (t : Time) (s : State) :
    (boundaryStep t s).pins = s.pins ∧ (boundaryStep t s).cleaning = s.cleaning ∧
    (boundaryStep t s).breakHeld = s.breakHeld ∧ (boundaryStep t s).lif.tx = s.lif.tx ∧
    (boundaryStep t s).txq.seqs = s.txq.seqs ∧ (boundaryStep t s).trb.parser = s.trb.parser ∧
    (boundaryStep t s).mgt.profile = s.mgt.profile ∧ (boundaryStep t s).mgt.settings = s.mgt.settings ∧
    (boundaryStep t s).mgt.mask = s.mgt.mask ∧ (boundaryStep t s).mgt.refusal = s.mgt.refusal ∧
    (boundaryStep t s).mgt.capture = s.mgt.capture ∧ (boundaryStep t s).pending = s.pending := by
  unfold boundaryStep
  dsimp only
  (repeat' split) <;> simp

/-- What `clearCycle` leaves as it is. -/
@[simp] theorem clearCycle_frame (s : State) :
    (clearCycle s).pins = s.pins ∧ (clearCycle s).cleaning = s.cleaning ∧ (clearCycle s).breakHeld = s.breakHeld ∧
    (clearCycle s).lif = s.lif ∧ (clearCycle s).cyc.state = s.cyc.state ∧
    (clearCycle s).cyc.haltCause = s.cyc.haltCause ∧ (clearCycle s).cyc.leavePending = s.cyc.leavePending ∧
    (clearCycle s).cyc.joinAttempt = s.cyc.joinAttempt ∧ (clearCycle s).cyc.joinCycle = s.cyc.joinCycle ∧
    (clearCycle s).cyc.outOfStep = s.cyc.outOfStep ∧ (clearCycle s).cyc.echoFault = s.cyc.echoFault ∧
    (clearCycle s).cyc.profileChecked = s.cyc.profileChecked ∧ (clearCycle s).cyc.coldStart = s.cyc.coldStart ∧
    (clearCycle s).cyc.pendingLoad = s.cyc.pendingLoad ∧ (clearCycle s).cyc.timingLock = s.cyc.timingLock ∧
    (clearCycle s).cyc.position = s.cyc.position ∧ (clearCycle s).cyc.cycleStart = s.cyc.cycleStart ∧
    (clearCycle s).cyc.annStart = s.cyc.annStart ∧ (clearCycle s).cyc.dataStart = s.cyc.dataStart ∧
    (clearCycle s).cyc.dataEnd = s.cyc.dataEnd ∧ (clearCycle s).cyc.unslottedUntil = s.cyc.unslottedUntil ∧
    (clearCycle s).cyc.fixedAt = s.cyc.fixedAt ∧ (clearCycle s).cyc.listenTimer = s.cyc.listenTimer ∧
    (clearCycle s).cyc.lineLost = s.cyc.lineLost ∧ (clearCycle s).ssu.sched = s.ssu.sched ∧
    (clearCycle s).ssu.digest = s.ssu.digest ∧ (clearCycle s).txq = s.txq ∧ (clearCycle s).ras = s.ras ∧
    (clearCycle s).dlv = s.dlv ∧ (clearCycle s).trb = s.trb ∧ (clearCycle s).mgt = s.mgt ∧
    (clearCycle s).freeIx = s.freeIx ∧ (clearCycle s).pending = s.pending := by
  unfold clearCycle
  dsimp only
  simp

/-- What `takeBoundary` leaves as it is. -/
@[simp] theorem takeBoundary_frame (t : Time) (s : State) :
    (takeBoundary t s).pins = s.pins ∧ (takeBoundary t s).cleaning = s.cleaning ∧
    (takeBoundary t s).breakHeld = s.breakHeld ∧ (takeBoundary t s).lif.tx = s.lif.tx ∧
    (takeBoundary t s).txq.seqs = s.txq.seqs ∧ (takeBoundary t s).trb.parser = s.trb.parser ∧
    (takeBoundary t s).mgt.profile = s.mgt.profile ∧ (takeBoundary t s).mgt.settings = s.mgt.settings ∧
    (takeBoundary t s).mgt.mask = s.mgt.mask ∧ (takeBoundary t s).mgt.refusal = s.mgt.refusal ∧
    (takeBoundary t s).mgt.capture = s.mgt.capture ∧ (takeBoundary t s).pending = s.pending := by
  unfold takeBoundary
  simp

/-- What `beginGap` leaves as it is. -/
@[simp] theorem beginGap_frame (t : Time) (s : State) :
    (beginGap t s).pins = s.pins ∧ (beginGap t s).cleaning = s.cleaning ∧ (beginGap t s).breakHeld = s.breakHeld ∧
    (beginGap t s).lif.tx = s.lif.tx ∧ (beginGap t s).txq.seqs = s.txq.seqs ∧
    (beginGap t s).trb.parser = s.trb.parser ∧ (beginGap t s).mgt.profile = s.mgt.profile ∧
    (beginGap t s).mgt.settings = s.mgt.settings ∧ (beginGap t s).mgt.mask = s.mgt.mask ∧
    (beginGap t s).mgt.refusal = s.mgt.refusal ∧ (beginGap t s).mgt.capture = s.mgt.capture ∧
    (beginGap t s).pending = s.pending := by
  unfold beginGap
  simp

/-- What `compareProfile` leaves as it is. -/
@[simp] theorem compareProfile_frame (b : Byte) (s : State) :
    (compareProfile b s).pins = s.pins ∧ (compareProfile b s).cleaning = s.cleaning ∧
    (compareProfile b s).breakHeld = s.breakHeld ∧ (compareProfile b s).lif.tx = s.lif.tx ∧
    (compareProfile b s).txq.seqs = s.txq.seqs ∧ (compareProfile b s).trb.parser = s.trb.parser ∧
    (compareProfile b s).mgt.profile = s.mgt.profile ∧ (compareProfile b s).mgt.settings = s.mgt.settings ∧
    (compareProfile b s).mgt.mask = s.mgt.mask ∧ (compareProfile b s).mgt.refusal = s.mgt.refusal ∧
    (compareProfile b s).mgt.capture = s.mgt.capture ∧ (compareProfile b s).pending = s.pending := by
  unfold compareProfile
  (repeat' split) <;> simp

/-- What `checkDuplicate` leaves as it is. -/
@[simp] theorem checkDuplicate_frame (st : Station) (own : Bool) (s : State) :
    (checkDuplicate st own s).pins = s.pins ∧ (checkDuplicate st own s).cleaning = s.cleaning ∧
    (checkDuplicate st own s).breakHeld = s.breakHeld ∧ (checkDuplicate st own s).lif.tx = s.lif.tx ∧
    (checkDuplicate st own s).txq.seqs = s.txq.seqs ∧ (checkDuplicate st own s).trb.parser = s.trb.parser ∧
    (checkDuplicate st own s).mgt.profile = s.mgt.profile ∧ (checkDuplicate st own s).mgt.settings = s.mgt.settings ∧
    (checkDuplicate st own s).mgt.mask = s.mgt.mask ∧ (checkDuplicate st own s).mgt.refusal = s.mgt.refusal ∧
    (checkDuplicate st own s).mgt.capture = s.mgt.capture ∧ (checkDuplicate st own s).pending = s.pending := by
  unfold checkDuplicate
  (repeat' split) <;> simp

/-- What `countEcho` leaves as it is. -/
@[simp] theorem countEcho_frame (ok : Bool) (s : State) :
    (countEcho ok s).pins = s.pins ∧ (countEcho ok s).cleaning = s.cleaning ∧
    (countEcho ok s).breakHeld = s.breakHeld ∧ (countEcho ok s).lif.tx = s.lif.tx ∧
    (countEcho ok s).txq.seqs = s.txq.seqs ∧ (countEcho ok s).trb.parser = s.trb.parser ∧
    (countEcho ok s).mgt.profile = s.mgt.profile ∧ (countEcho ok s).mgt.settings = s.mgt.settings ∧
    (countEcho ok s).mgt.mask = s.mgt.mask ∧ (countEcho ok s).mgt.refusal = s.mgt.refusal ∧
    (countEcho ok s).mgt.capture = s.mgt.capture ∧ (countEcho ok s).pending = s.pending := by
  unfold countEcho
  dsimp only
  (repeat' split) <;> simp

/-- What `leaveAfterBid` leaves as it is. -/
@[simp] theorem leaveAfterBid_frame (own : Option Frame) (s : State) :
    (leaveAfterBid own s).pins = s.pins ∧ (leaveAfterBid own s).cleaning = s.cleaning ∧
    (leaveAfterBid own s).breakHeld = s.breakHeld ∧ (leaveAfterBid own s).lif = s.lif ∧
    (leaveAfterBid own s).cyc.haltCause = s.cyc.haltCause ∧
    (leaveAfterBid own s).cyc.leavePending = s.cyc.leavePending ∧
    (leaveAfterBid own s).cyc.joinAttempt = s.cyc.joinAttempt ∧
    (leaveAfterBid own s).cyc.joinCycle = s.cyc.joinCycle ∧ (leaveAfterBid own s).cyc.outOfStep = s.cyc.outOfStep ∧
    (leaveAfterBid own s).cyc.echoFault = s.cyc.echoFault ∧
    (leaveAfterBid own s).cyc.profileChecked = s.cyc.profileChecked ∧
    (leaveAfterBid own s).cyc.coldStart = s.cyc.coldStart ∧
    (leaveAfterBid own s).cyc.pendingLoad = s.cyc.pendingLoad ∧
    (leaveAfterBid own s).cyc.timingLock = s.cyc.timingLock ∧ (leaveAfterBid own s).cyc.position = s.cyc.position ∧
    (leaveAfterBid own s).cyc.boundaryDue = s.cyc.boundaryDue ∧
    (leaveAfterBid own s).cyc.cycleStart = s.cyc.cycleStart ∧ (leaveAfterBid own s).cyc.annStart = s.cyc.annStart ∧
    (leaveAfterBid own s).cyc.dataStart = s.cyc.dataStart ∧ (leaveAfterBid own s).cyc.dataEnd = s.cyc.dataEnd ∧
    (leaveAfterBid own s).cyc.unslottedUntil = s.cyc.unslottedUntil ∧
    (leaveAfterBid own s).cyc.fixedAt = s.cyc.fixedAt ∧ (leaveAfterBid own s).cyc.layout = s.cyc.layout ∧
    (leaveAfterBid own s).cyc.listenTimer = s.cyc.listenTimer ∧ (leaveAfterBid own s).cyc.lineLost = s.cyc.lineLost ∧
    (leaveAfterBid own s).cyc.bids = s.cyc.bids ∧ (leaveAfterBid own s).cyc.outcome = s.cyc.outcome ∧
    (leaveAfterBid own s).cyc.eligibleLast = s.cyc.eligibleLast ∧ (leaveAfterBid own s).ssu = s.ssu ∧
    (leaveAfterBid own s).alc = s.alc ∧ (leaveAfterBid own s).txq = s.txq ∧ (leaveAfterBid own s).ras = s.ras ∧
    (leaveAfterBid own s).dlv = s.dlv ∧ (leaveAfterBid own s).trb = s.trb ∧
    (leaveAfterBid own s).mgt.profile = s.mgt.profile ∧ (leaveAfterBid own s).mgt.settings = s.mgt.settings ∧
    (leaveAfterBid own s).mgt.mask = s.mgt.mask ∧ (leaveAfterBid own s).mgt.refusal = s.mgt.refusal ∧
    (leaveAfterBid own s).mgt.counters = s.mgt.counters ∧ (leaveAfterBid own s).mgt.capture = s.mgt.capture ∧
    (leaveAfterBid own s).freeIx = s.freeIx ∧ (leaveAfterBid own s).pending = s.pending := by
  unfold leaveAfterBid
  (repeat' split) <;> simp

/-- What `gapReport` leaves as it is. -/
@[simp] theorem gapReport_frame (line : SpanLine) (s : State) :
    (gapReport line s).pins = s.pins ∧ (gapReport line s).cleaning = s.cleaning ∧
    (gapReport line s).breakHeld = s.breakHeld ∧ (gapReport line s).lif = s.lif ∧
    (gapReport line s).cyc.state = s.cyc.state ∧ (gapReport line s).cyc.haltCause = s.cyc.haltCause ∧
    (gapReport line s).cyc.leavePending = s.cyc.leavePending ∧
    (gapReport line s).cyc.joinAttempt = s.cyc.joinAttempt ∧ (gapReport line s).cyc.joinCycle = s.cyc.joinCycle ∧
    (gapReport line s).cyc.outOfStep = s.cyc.outOfStep ∧ (gapReport line s).cyc.echoFault = s.cyc.echoFault ∧
    (gapReport line s).cyc.profileChecked = s.cyc.profileChecked ∧
    (gapReport line s).cyc.coldStart = s.cyc.coldStart ∧ (gapReport line s).cyc.pendingLoad = s.cyc.pendingLoad ∧
    (gapReport line s).cyc.timingLock = s.cyc.timingLock ∧ (gapReport line s).cyc.boundaryDue = s.cyc.boundaryDue ∧
    (gapReport line s).cyc.cycleStart = s.cyc.cycleStart ∧ (gapReport line s).cyc.annStart = s.cyc.annStart ∧
    (gapReport line s).cyc.dataStart = s.cyc.dataStart ∧ (gapReport line s).cyc.dataEnd = s.cyc.dataEnd ∧
    (gapReport line s).cyc.unslottedUntil = s.cyc.unslottedUntil ∧ (gapReport line s).cyc.fixedAt = s.cyc.fixedAt ∧
    (gapReport line s).cyc.layout = s.cyc.layout ∧ (gapReport line s).cyc.listenTimer = s.cyc.listenTimer ∧
    (gapReport line s).cyc.lineLost = s.cyc.lineLost ∧ (gapReport line s).cyc.bids = s.cyc.bids ∧
    (gapReport line s).cyc.outcome = s.cyc.outcome ∧ (gapReport line s).cyc.eligibleLast = s.cyc.eligibleLast ∧
    (gapReport line s).ssu = s.ssu ∧ (gapReport line s).alc = s.alc ∧ (gapReport line s).txq = s.txq ∧
    (gapReport line s).ras = s.ras ∧ (gapReport line s).dlv = s.dlv ∧ (gapReport line s).trb = s.trb ∧
    (gapReport line s).mgt.profile = s.mgt.profile ∧ (gapReport line s).mgt.settings = s.mgt.settings ∧
    (gapReport line s).mgt.events = s.mgt.events ∧ (gapReport line s).mgt.arisen = s.mgt.arisen ∧
    (gapReport line s).mgt.mask = s.mgt.mask ∧ (gapReport line s).mgt.refusal = s.mgt.refusal ∧
    (gapReport line s).mgt.capture = s.mgt.capture ∧ (gapReport line s).freeIx = s.freeIx ∧
    (gapReport line s).pending = s.pending := by
  unfold gapReport
  dsimp only
  (repeat' split) <;> simp

/-- What `endBidSlot` leaves as it is. -/
@[simp] theorem endBidSlot_frame (k : Nat) (d : Time) (s : State) :
    (endBidSlot k d s).pins = s.pins ∧ (endBidSlot k d s).cleaning = s.cleaning ∧
    (endBidSlot k d s).breakHeld = s.breakHeld ∧ (endBidSlot k d s).lif.tx = s.lif.tx ∧
    (endBidSlot k d s).txq.seqs = s.txq.seqs ∧ (endBidSlot k d s).trb.parser = s.trb.parser ∧
    (endBidSlot k d s).mgt.profile = s.mgt.profile ∧ (endBidSlot k d s).mgt.settings = s.mgt.settings ∧
    (endBidSlot k d s).mgt.mask = s.mgt.mask ∧ (endBidSlot k d s).mgt.refusal = s.mgt.refusal ∧
    (endBidSlot k d s).mgt.capture = s.mgt.capture ∧ (endBidSlot k d s).pending = s.pending := by
  unfold endBidSlot
  (repeat' split) <;> simp

/-- What `enterBidReport` leaves as it is. -/
@[simp] theorem enterBidReport_frame (k : Nat) (own : Option Frame) (ok : Bool) (c : SlotClass) (s : State) :
    (enterBidReport k own ok c s).pins = s.pins ∧ (enterBidReport k own ok c s).cleaning = s.cleaning ∧
    (enterBidReport k own ok c s).breakHeld = s.breakHeld ∧ (enterBidReport k own ok c s).lif.tx = s.lif.tx ∧
    (enterBidReport k own ok c s).txq.seqs = s.txq.seqs ∧ (enterBidReport k own ok c s).trb.parser = s.trb.parser ∧
    (enterBidReport k own ok c s).mgt.profile = s.mgt.profile ∧
    (enterBidReport k own ok c s).mgt.settings = s.mgt.settings ∧
    (enterBidReport k own ok c s).mgt.mask = s.mgt.mask ∧ (enterBidReport k own ok c s).mgt.refusal = s.mgt.refusal ∧
    (enterBidReport k own ok c s).mgt.capture = s.mgt.capture ∧
    (enterBidReport k own ok c s).pending = s.pending := by
  unfold enterBidReport
  dsimp only
  (repeat' split) <;> simp

/-- What `bidSlotReport` leaves as it is. -/
@[simp] theorem bidSlotReport_frame (k : Nat) (a : Time) (line : SpanLine) (s : State) :
    (bidSlotReport k a line s).pins = s.pins ∧ (bidSlotReport k a line s).cleaning = s.cleaning ∧
    (bidSlotReport k a line s).breakHeld = s.breakHeld ∧ (bidSlotReport k a line s).lif.tx = s.lif.tx ∧
    (bidSlotReport k a line s).txq.seqs = s.txq.seqs ∧ (bidSlotReport k a line s).trb.parser = s.trb.parser ∧
    (bidSlotReport k a line s).mgt.profile = s.mgt.profile ∧
    (bidSlotReport k a line s).mgt.settings = s.mgt.settings ∧ (bidSlotReport k a line s).mgt.mask = s.mgt.mask ∧
    (bidSlotReport k a line s).mgt.refusal = s.mgt.refusal ∧ (bidSlotReport k a line s).mgt.capture = s.mgt.capture ∧
    (bidSlotReport k a line s).pending = s.pending := by
  unfold bidSlotReport
  dsimp only
  (repeat' split) <;> simp

/-- What `handDataFrame` leaves as it is. -/
@[simp] theorem handDataFrame_frame (t : Time) (f : Frame) (s : State) :
    (handDataFrame t f s).pins = s.pins ∧ (handDataFrame t f s).cleaning = s.cleaning ∧
    (handDataFrame t f s).breakHeld = s.breakHeld ∧ (handDataFrame t f s).lif.tx = s.lif.tx ∧
    (handDataFrame t f s).txq.seqs = s.txq.seqs ∧ (handDataFrame t f s).trb.parser = s.trb.parser ∧
    (handDataFrame t f s).mgt.profile = s.mgt.profile ∧ (handDataFrame t f s).mgt.settings = s.mgt.settings ∧
    (handDataFrame t f s).mgt.mask = s.mgt.mask ∧ (handDataFrame t f s).mgt.refusal = s.mgt.refusal ∧
    (handDataFrame t f s).mgt.capture = s.mgt.capture ∧ (handDataFrame t f s).pending = s.pending := by
  unfold handDataFrame
  (repeat' split) <;> simp

/-- What `dataSlotReport` leaves as it is. -/
@[simp] theorem dataSlotReport_frame (o : Bool) (i : Nat) (d : Time) (line : SpanLine) (s : State) :
    (dataSlotReport o i d line s).pins = s.pins ∧ (dataSlotReport o i d line s).cleaning = s.cleaning ∧
    (dataSlotReport o i d line s).breakHeld = s.breakHeld ∧ (dataSlotReport o i d line s).lif.tx = s.lif.tx ∧
    (dataSlotReport o i d line s).txq.seqs = s.txq.seqs ∧ (dataSlotReport o i d line s).trb.parser = s.trb.parser ∧
    (dataSlotReport o i d line s).mgt.profile = s.mgt.profile ∧
    (dataSlotReport o i d line s).mgt.settings = s.mgt.settings ∧
    (dataSlotReport o i d line s).mgt.mask = s.mgt.mask ∧ (dataSlotReport o i d line s).mgt.refusal = s.mgt.refusal ∧
    (dataSlotReport o i d line s).mgt.capture = s.mgt.capture ∧
    (dataSlotReport o i d line s).pending = s.pending := by
  unfold dataSlotReport
  dsimp only
  (repeat' split) <;> simp

/-- What `slotReport` leaves as it is. -/
@[simp] theorem slotReport_frame (line : SpanLine) (s : State) :
    (slotReport line s).pins = s.pins ∧ (slotReport line s).cleaning = s.cleaning ∧
    (slotReport line s).breakHeld = s.breakHeld ∧ (slotReport line s).lif.tx = s.lif.tx ∧
    (slotReport line s).txq.seqs = s.txq.seqs ∧ (slotReport line s).trb.parser = s.trb.parser ∧
    (slotReport line s).mgt.profile = s.mgt.profile ∧ (slotReport line s).mgt.settings = s.mgt.settings ∧
    (slotReport line s).mgt.mask = s.mgt.mask ∧ (slotReport line s).mgt.refusal = s.mgt.refusal ∧
    (slotReport line s).mgt.capture = s.mgt.capture ∧ (slotReport line s).pending = s.pending := by
  unfold slotReport
  (repeat' split) <;> simp

/-- What `enterPassedSlots` leaves as it is. -/
@[simp] theorem enterPassedSlots_frame (a : Time) (s : State) (n : Nat) :
    (enterPassedSlots a s n).pins = s.pins ∧ (enterPassedSlots a s n).cleaning = s.cleaning ∧
    (enterPassedSlots a s n).breakHeld = s.breakHeld ∧ (enterPassedSlots a s n).lif = s.lif ∧
    (enterPassedSlots a s n).cyc.state = s.cyc.state ∧ (enterPassedSlots a s n).cyc.haltCause = s.cyc.haltCause ∧
    (enterPassedSlots a s n).cyc.leavePending = s.cyc.leavePending ∧
    (enterPassedSlots a s n).cyc.joinAttempt = s.cyc.joinAttempt ∧
    (enterPassedSlots a s n).cyc.joinCycle = s.cyc.joinCycle ∧ (enterPassedSlots a s n).cyc.outOfStep = s.cyc.outOfStep ∧
    (enterPassedSlots a s n).cyc.echoFault = s.cyc.echoFault ∧
    (enterPassedSlots a s n).cyc.profileChecked = s.cyc.profileChecked ∧
    (enterPassedSlots a s n).cyc.coldStart = s.cyc.coldStart ∧
    (enterPassedSlots a s n).cyc.pendingLoad = s.cyc.pendingLoad ∧
    (enterPassedSlots a s n).cyc.timingLock = s.cyc.timingLock ∧ (enterPassedSlots a s n).cyc.position = s.cyc.position ∧
    (enterPassedSlots a s n).cyc.boundaryDue = s.cyc.boundaryDue ∧
    (enterPassedSlots a s n).cyc.cycleStart = s.cyc.cycleStart ∧ (enterPassedSlots a s n).cyc.annStart = s.cyc.annStart ∧
    (enterPassedSlots a s n).cyc.dataStart = s.cyc.dataStart ∧ (enterPassedSlots a s n).cyc.dataEnd = s.cyc.dataEnd ∧
    (enterPassedSlots a s n).cyc.unslottedUntil = s.cyc.unslottedUntil ∧
    (enterPassedSlots a s n).cyc.fixedAt = s.cyc.fixedAt ∧ (enterPassedSlots a s n).cyc.layout = s.cyc.layout ∧
    (enterPassedSlots a s n).cyc.listenTimer = s.cyc.listenTimer ∧
    (enterPassedSlots a s n).cyc.lineLost = s.cyc.lineLost ∧ (enterPassedSlots a s n).cyc.outcome = s.cyc.outcome ∧
    (enterPassedSlots a s n).cyc.eligibleLast = s.cyc.eligibleLast ∧ (enterPassedSlots a s n).ssu = s.ssu ∧
    (enterPassedSlots a s n).alc = s.alc ∧ (enterPassedSlots a s n).txq = s.txq ∧ (enterPassedSlots a s n).ras = s.ras ∧
    (enterPassedSlots a s n).dlv = s.dlv ∧ (enterPassedSlots a s n).trb = s.trb ∧ (enterPassedSlots a s n).mgt = s.mgt ∧
    (enterPassedSlots a s n).freeIx = s.freeIx ∧ (enterPassedSlots a s n).pending = s.pending := by
  induction n with
  | zero => simp [enterPassedSlots]
  | succ n ih => simp [enterPassedSlots, ih]

/-- What `beginCycleByBid` leaves as it is. -/
@[simp] theorem beginCycleByBid_frame (own : Bool) (f : BidFrame) (r : Reception) (s : State) :
    (beginCycleByBid own f r s).pins = s.pins ∧ (beginCycleByBid own f r s).cleaning = s.cleaning ∧
    (beginCycleByBid own f r s).breakHeld = s.breakHeld ∧ (beginCycleByBid own f r s).lif.tx = s.lif.tx ∧
    (beginCycleByBid own f r s).txq.seqs = s.txq.seqs ∧ (beginCycleByBid own f r s).trb.parser = s.trb.parser ∧
    (beginCycleByBid own f r s).mgt.profile = s.mgt.profile ∧
    (beginCycleByBid own f r s).mgt.settings = s.mgt.settings ∧ (beginCycleByBid own f r s).mgt.mask = s.mgt.mask ∧
    (beginCycleByBid own f r s).mgt.refusal = s.mgt.refusal ∧
    (beginCycleByBid own f r s).mgt.capture = s.mgt.capture ∧ (beginCycleByBid own f r s).pending = s.pending := by
  unfold beginCycleByBid
  dsimp only
  (repeat' split) <;> simp

/-- What `fixCycleByStart` leaves as it is. -/
@[simp] theorem fixCycleByStart_frame (e : Time) (s : State) :
    (fixCycleByStart e s).pins = s.pins ∧ (fixCycleByStart e s).cleaning = s.cleaning ∧
    (fixCycleByStart e s).breakHeld = s.breakHeld ∧ (fixCycleByStart e s).lif = s.lif ∧
    (fixCycleByStart e s).ssu = s.ssu ∧ (fixCycleByStart e s).alc = s.alc ∧ (fixCycleByStart e s).txq = s.txq ∧
    (fixCycleByStart e s).ras = s.ras ∧ (fixCycleByStart e s).dlv = s.dlv ∧ (fixCycleByStart e s).trb = s.trb ∧
    (fixCycleByStart e s).mgt = s.mgt ∧ (fixCycleByStart e s).freeIx = s.freeIx ∧
    (fixCycleByStart e s).pending = s.pending := by
  unfold fixCycleByStart
  simp

/-- What `fixEndUnslotted` leaves as it is. -/
@[simp] theorem fixEndUnslotted_frame (f : Frame) (r : Reception) (s : State) :
    (fixEndUnslotted f r s).pins = s.pins ∧ (fixEndUnslotted f r s).cleaning = s.cleaning ∧
    (fixEndUnslotted f r s).breakHeld = s.breakHeld ∧ (fixEndUnslotted f r s).lif = s.lif ∧
    (fixEndUnslotted f r s).ssu = s.ssu ∧ (fixEndUnslotted f r s).alc = s.alc ∧ (fixEndUnslotted f r s).txq = s.txq ∧
    (fixEndUnslotted f r s).ras = s.ras ∧ (fixEndUnslotted f r s).dlv = s.dlv ∧ (fixEndUnslotted f r s).trb = s.trb ∧
    (fixEndUnslotted f r s).mgt = s.mgt ∧ (fixEndUnslotted f r s).freeIx = s.freeIx ∧
    (fixEndUnslotted f r s).pending = s.pending := by
  unfold fixEndUnslotted
  dsimp only
  (repeat' split) <;> simp

/-- What `takeUnslotted` leaves as it is. -/
@[simp] theorem takeUnslotted_frame (own : Bool) (f : Frame) (r : Reception) (s : State) :
    (takeUnslotted own f r s).pins = s.pins ∧ (takeUnslotted own f r s).cleaning = s.cleaning ∧
    (takeUnslotted own f r s).breakHeld = s.breakHeld ∧ (takeUnslotted own f r s).lif.tx = s.lif.tx ∧
    (takeUnslotted own f r s).txq.seqs = s.txq.seqs ∧ (takeUnslotted own f r s).trb.parser = s.trb.parser ∧
    (takeUnslotted own f r s).mgt.profile = s.mgt.profile ∧ (takeUnslotted own f r s).mgt.settings = s.mgt.settings ∧
    (takeUnslotted own f r s).mgt.mask = s.mgt.mask ∧ (takeUnslotted own f r s).mgt.refusal = s.mgt.refusal ∧
    (takeUnslotted own f r s).mgt.capture = s.mgt.capture ∧ (takeUnslotted own f r s).pending = s.pending := by
  unfold takeUnslotted
  (repeat' split) <;> simp

/-- What `startEchoFailed` leaves as it is. -/
@[simp] theorem startEchoFailed_frame (t : Time) (s : State) :
    (startEchoFailed t s).pins = s.pins ∧ (startEchoFailed t s).cleaning = s.cleaning ∧
    (startEchoFailed t s).breakHeld = s.breakHeld ∧ (startEchoFailed t s).lif.tx = s.lif.tx ∧
    (startEchoFailed t s).txq.seqs = s.txq.seqs ∧ (startEchoFailed t s).trb.parser = s.trb.parser ∧
    (startEchoFailed t s).mgt.profile = s.mgt.profile ∧ (startEchoFailed t s).mgt.settings = s.mgt.settings ∧
    (startEchoFailed t s).mgt.mask = s.mgt.mask ∧ (startEchoFailed t s).mgt.refusal = s.mgt.refusal ∧
    (startEchoFailed t s).mgt.capture = s.mgt.capture ∧ (startEchoFailed t s).pending = s.pending := by
  unfold startEchoFailed
  simp

/-- What `judgeStartEcho` leaves as it is. -/
@[simp] theorem judgeStartEcho_frame (e : EchoWatch) (f : Option Frame) (r : Reception) (s : State) :
    (judgeStartEcho e f r s).pins = s.pins ∧ (judgeStartEcho e f r s).cleaning = s.cleaning ∧
    (judgeStartEcho e f r s).breakHeld = s.breakHeld ∧ (judgeStartEcho e f r s).lif.tx = s.lif.tx ∧
    (judgeStartEcho e f r s).txq.seqs = s.txq.seqs ∧ (judgeStartEcho e f r s).trb.parser = s.trb.parser ∧
    (judgeStartEcho e f r s).mgt.profile = s.mgt.profile ∧ (judgeStartEcho e f r s).mgt.settings = s.mgt.settings ∧
    (judgeStartEcho e f r s).mgt.mask = s.mgt.mask ∧ (judgeStartEcho e f r s).mgt.refusal = s.mgt.refusal ∧
    (judgeStartEcho e f r s).mgt.capture = s.mgt.capture ∧ (judgeStartEcho e f r s).pending = s.pending := by
  unfold judgeStartEcho
  dsimp only
  (repeat' split) <;> simp

/-- What `finishEcho` leaves as it is. -/
@[simp] theorem finishEcho_frame (f : Option Frame) (s : State) :
    (finishEcho f s).pins = s.pins ∧ (finishEcho f s).cleaning = s.cleaning ∧
    (finishEcho f s).breakHeld = s.breakHeld ∧ (finishEcho f s).lif.tx = s.lif.tx ∧ (finishEcho f s).cyc = s.cyc ∧
    (finishEcho f s).ssu = s.ssu ∧ (finishEcho f s).alc = s.alc ∧ (finishEcho f s).txq = s.txq ∧
    (finishEcho f s).ras = s.ras ∧ (finishEcho f s).dlv = s.dlv ∧ (finishEcho f s).trb = s.trb ∧
    (finishEcho f s).mgt.profile = s.mgt.profile ∧ (finishEcho f s).mgt.settings = s.mgt.settings ∧
    (finishEcho f s).mgt.events = s.mgt.events ∧ (finishEcho f s).mgt.arisen = s.mgt.arisen ∧
    (finishEcho f s).mgt.mask = s.mgt.mask ∧ (finishEcho f s).mgt.refusal = s.mgt.refusal ∧
    (finishEcho f s).mgt.capture = s.mgt.capture ∧ (finishEcho f s).freeIx = s.freeIx ∧
    (finishEcho f s).pending = s.pending := by
  unfold finishEcho
  dsimp only
  (repeat' split) <;> simp

/-- What `takeReception` leaves as it is. -/
@[simp] theorem takeReception_frame (own : Option Frame) (f : Option Frame) (r : Reception) (s : State) :
    (takeReception own f r s).pins = s.pins ∧ (takeReception own f r s).cleaning = s.cleaning ∧
    (takeReception own f r s).breakHeld = s.breakHeld ∧ (takeReception own f r s).lif.tx = s.lif.tx ∧
    (takeReception own f r s).txq.seqs = s.txq.seqs ∧ (takeReception own f r s).trb.parser = s.trb.parser ∧
    (takeReception own f r s).mgt.profile = s.mgt.profile ∧ (takeReception own f r s).mgt.settings = s.mgt.settings ∧
    (takeReception own f r s).mgt.mask = s.mgt.mask ∧ (takeReception own f r s).mgt.refusal = s.mgt.refusal ∧
    (takeReception own f r s).mgt.capture = s.mgt.capture ∧ (takeReception own f r s).pending = s.pending := by
  unfold takeReception
  (repeat' split) <;> simp

/-- What `unslottedReception` leaves as it is. -/
@[simp] theorem unslottedReception_frame (r : Reception) (s : State) :
    (unslottedReception r s).pins = s.pins ∧ (unslottedReception r s).cleaning = s.cleaning ∧
    (unslottedReception r s).breakHeld = s.breakHeld ∧ (unslottedReception r s).lif.tx = s.lif.tx ∧
    (unslottedReception r s).txq.seqs = s.txq.seqs ∧ (unslottedReception r s).trb.parser = s.trb.parser ∧
    (unslottedReception r s).mgt.profile = s.mgt.profile ∧ (unslottedReception r s).mgt.settings = s.mgt.settings ∧
    (unslottedReception r s).mgt.mask = s.mgt.mask ∧ (unslottedReception r s).mgt.refusal = s.mgt.refusal ∧
    (unslottedReception r s).mgt.capture = s.mgt.capture ∧ (unslottedReception r s).pending = s.pending := by
  unfold unslottedReception
  dsimp only
  (repeat' split) <;> simp

/-- What `foundLine` leaves as it is. -/
@[simp] theorem foundLine_frame (t : Time) (s : State) :
    (foundLine t s).pins = s.pins ∧ (foundLine t s).cleaning = s.cleaning ∧ (foundLine t s).breakHeld = s.breakHeld ∧
    (foundLine t s).lif = s.lif ∧ (foundLine t s).alc = s.alc ∧ (foundLine t s).txq = s.txq ∧
    (foundLine t s).ras = s.ras ∧ (foundLine t s).dlv = s.dlv ∧ (foundLine t s).trb = s.trb ∧
    (foundLine t s).mgt.profile = s.mgt.profile ∧ (foundLine t s).mgt.settings = s.mgt.settings ∧
    (foundLine t s).mgt.mask = s.mgt.mask ∧ (foundLine t s).mgt.refusal = s.mgt.refusal ∧
    (foundLine t s).mgt.counters = s.mgt.counters ∧ (foundLine t s).mgt.capture = s.mgt.capture ∧
    (foundLine t s).freeIx = s.freeIx ∧ (foundLine t s).pending = s.pending := by
  unfold foundLine
  simp

/-- What `settleStartEcho` leaves as it is. -/
@[simp] theorem settleStartEcho_frame (t : Time) (s : State) :
    (settleStartEcho t s).pins = s.pins ∧ (settleStartEcho t s).cleaning = s.cleaning ∧
    (settleStartEcho t s).breakHeld = s.breakHeld ∧ (settleStartEcho t s).lif.tx = s.lif.tx ∧
    (settleStartEcho t s).txq.seqs = s.txq.seqs ∧ (settleStartEcho t s).trb.parser = s.trb.parser ∧
    (settleStartEcho t s).mgt.profile = s.mgt.profile ∧ (settleStartEcho t s).mgt.settings = s.mgt.settings ∧
    (settleStartEcho t s).mgt.mask = s.mgt.mask ∧ (settleStartEcho t s).mgt.refusal = s.mgt.refusal ∧
    (settleStartEcho t s).mgt.capture = s.mgt.capture ∧ (settleStartEcho t s).pending = s.pending := by
  unfold settleStartEcho
  dsimp only
  (repeat' split) <;> simp

/-- What `afterTransmission` leaves as it is. -/
@[simp] theorem afterTransmission_frame (t : Time) (f : Frame) (s : State) :
    (afterTransmission t f s).pins = s.pins ∧ (afterTransmission t f s).cleaning = s.cleaning ∧
    (afterTransmission t f s).breakHeld = s.breakHeld ∧ (afterTransmission t f s).lif.tx = s.lif.tx ∧
    (afterTransmission t f s).txq.seqs = s.txq.seqs ∧ (afterTransmission t f s).trb.parser = s.trb.parser ∧
    (afterTransmission t f s).mgt.profile = s.mgt.profile ∧ (afterTransmission t f s).mgt.settings = s.mgt.settings ∧
    (afterTransmission t f s).mgt.mask = s.mgt.mask ∧ (afterTransmission t f s).mgt.refusal = s.mgt.refusal ∧
    (afterTransmission t f s).mgt.capture = s.mgt.capture ∧ (afterTransmission t f s).pending = s.pending := by
  unfold afterTransmission
  dsimp only
  (repeat' split) <;> simp

/-- What `lineLoss` leaves as it is. -/
@[simp] theorem lineLoss_frame (t : Time) (s : State) :
    (lineLoss t s).pins = s.pins ∧ (lineLoss t s).cleaning = s.cleaning ∧ (lineLoss t s).breakHeld = s.breakHeld ∧
    (lineLoss t s).lif.tx = s.lif.tx ∧ (lineLoss t s).txq.seqs = s.txq.seqs ∧
    (lineLoss t s).trb.parser = s.trb.parser ∧ (lineLoss t s).mgt.profile = s.mgt.profile ∧
    (lineLoss t s).mgt.settings = s.mgt.settings ∧ (lineLoss t s).mgt.mask = s.mgt.mask ∧
    (lineLoss t s).mgt.refusal = s.mgt.refusal ∧ (lineLoss t s).mgt.capture = s.mgt.capture ∧
    (lineLoss t s).pending = s.pending := by
  unfold lineLoss
  (repeat' split) <;> simp

/-- What `takeHead` leaves as it is. -/
@[simp] theorem takeHead_frame (w : Word) (s : State) :
    (takeHead w s).pins = s.pins ∧ (takeHead w s).cleaning = s.cleaning ∧ (takeHead w s).breakHeld = s.breakHeld ∧
    (takeHead w s).lif = s.lif ∧ (takeHead w s).cyc = s.cyc ∧ (takeHead w s).ssu = s.ssu ∧
    (takeHead w s).alc = s.alc ∧ (takeHead w s).ras = s.ras ∧ (takeHead w s).mgt.profile = s.mgt.profile ∧
    (takeHead w s).mgt.settings = s.mgt.settings ∧ (takeHead w s).mgt.mask = s.mgt.mask ∧
    (takeHead w s).mgt.refusal = s.mgt.refusal ∧ (takeHead w s).mgt.capture = s.mgt.capture ∧
    (takeHead w s).freeIx = s.freeIx ∧ (takeHead w s).pending = s.pending := by
  unfold takeHead
  (repeat' split) <;> simp

/-- What `takeBody` leaves as it is. -/
@[simp] theorem takeBody_frame (w : Word) (s : State) :
    (takeBody w s).pins = s.pins ∧ (takeBody w s).cleaning = s.cleaning ∧ (takeBody w s).breakHeld = s.breakHeld ∧
    (takeBody w s).lif = s.lif ∧ (takeBody w s).cyc = s.cyc ∧ (takeBody w s).ssu = s.ssu ∧
    (takeBody w s).alc = s.alc ∧ (takeBody w s).ras = s.ras ∧ (takeBody w s).mgt.profile = s.mgt.profile ∧
    (takeBody w s).mgt.settings = s.mgt.settings ∧ (takeBody w s).mgt.mask = s.mgt.mask ∧
    (takeBody w s).mgt.refusal = s.mgt.refusal ∧ (takeBody w s).mgt.capture = s.mgt.capture ∧
    (takeBody w s).freeIx = s.freeIx ∧ (takeBody w s).pending = s.pending := by
  unfold takeBody
  (repeat' split) <;> simp

/-- What `takeTail` leaves as it is. -/
@[simp] theorem takeTail_frame (w : Word) (s : State) :
    (takeTail w s).pins = s.pins ∧ (takeTail w s).cleaning = s.cleaning ∧ (takeTail w s).breakHeld = s.breakHeld ∧
    (takeTail w s).lif = s.lif ∧ (takeTail w s).cyc = s.cyc ∧ (takeTail w s).ssu = s.ssu ∧
    (takeTail w s).alc = s.alc ∧ (takeTail w s).ras = s.ras ∧ (takeTail w s).mgt.profile = s.mgt.profile ∧
    (takeTail w s).mgt.settings = s.mgt.settings ∧ (takeTail w s).mgt.mask = s.mgt.mask ∧
    (takeTail w s).mgt.refusal = s.mgt.refusal ∧ (takeTail w s).mgt.capture = s.mgt.capture ∧
    (takeTail w s).freeIx = s.freeIx ∧ (takeTail w s).pending = s.pending := by
  unfold takeTail
  (repeat' split) <;> simp

/-- What `takeBreak` leaves as it is. -/
@[simp] theorem takeBreak_frame (s : State) :
    (takeBreak s).pins = s.pins ∧ (takeBreak s).cleaning = s.cleaning ∧ (takeBreak s).breakHeld = s.breakHeld ∧
    (takeBreak s).lif = s.lif ∧ (takeBreak s).cyc = s.cyc ∧ (takeBreak s).ssu = s.ssu ∧ (takeBreak s).alc = s.alc ∧
    (takeBreak s).ras = s.ras ∧ (takeBreak s).mgt.profile = s.mgt.profile ∧
    (takeBreak s).mgt.settings = s.mgt.settings ∧ (takeBreak s).mgt.mask = s.mgt.mask ∧
    (takeBreak s).mgt.refusal = s.mgt.refusal ∧ (takeBreak s).mgt.capture = s.mgt.capture ∧
    (takeBreak s).freeIx = s.freeIx ∧ (takeBreak s).pending = s.pending := by
  unfold takeBreak
  (repeat' split) <;> simp

/-- What `takeIngressWord` leaves as it is. -/
@[simp] theorem takeIngressWord_frame (k : WordKind) (w : Word) (s : State) :
    (takeIngressWord k w s).pins = s.pins ∧ (takeIngressWord k w s).cleaning = s.cleaning ∧
    (takeIngressWord k w s).breakHeld = s.breakHeld ∧ (takeIngressWord k w s).lif = s.lif ∧
    (takeIngressWord k w s).cyc = s.cyc ∧ (takeIngressWord k w s).ssu = s.ssu ∧ (takeIngressWord k w s).alc = s.alc ∧
    (takeIngressWord k w s).ras = s.ras ∧ (takeIngressWord k w s).mgt.profile = s.mgt.profile ∧
    (takeIngressWord k w s).mgt.settings = s.mgt.settings ∧ (takeIngressWord k w s).mgt.mask = s.mgt.mask ∧
    (takeIngressWord k w s).mgt.refusal = s.mgt.refusal ∧ (takeIngressWord k w s).mgt.capture = s.mgt.capture ∧
    (takeIngressWord k w s).freeIx = s.freeIx ∧ (takeIngressWord k w s).pending = s.pending := by
  unfold takeIngressWord
  (repeat' split) <;> simp

/-- What `refuseCommand` leaves as it is. -/
@[simp] theorem refuseCommand_frame (s : State) :
    (refuseCommand s).pins = s.pins ∧ (refuseCommand s).cleaning = s.cleaning ∧
    (refuseCommand s).breakHeld = s.breakHeld ∧ (refuseCommand s).lif = s.lif ∧ (refuseCommand s).cyc = s.cyc ∧
    (refuseCommand s).ssu = s.ssu ∧ (refuseCommand s).alc = s.alc ∧ (refuseCommand s).txq = s.txq ∧
    (refuseCommand s).ras = s.ras ∧ (refuseCommand s).dlv = s.dlv ∧ (refuseCommand s).trb = s.trb ∧
    (refuseCommand s).mgt.profile = s.mgt.profile ∧ (refuseCommand s).mgt.settings = s.mgt.settings ∧
    (refuseCommand s).mgt.mask = s.mgt.mask ∧ (refuseCommand s).mgt.refusal = s.mgt.refusal ∧
    (refuseCommand s).mgt.counters = s.mgt.counters ∧ (refuseCommand s).mgt.capture = s.mgt.capture ∧
    (refuseCommand s).freeIx = s.freeIx ∧ (refuseCommand s).pending = s.pending := by
  unfold refuseCommand
  simp

/-- What `joinCommand` leaves as it is. -/
@[simp] theorem joinCommand_frame (t : Time) (s : State) :
    (joinCommand t s).pins = s.pins ∧ (joinCommand t s).cleaning = s.cleaning ∧
    (joinCommand t s).breakHeld = s.breakHeld ∧ (joinCommand t s).lif.tx = s.lif.tx ∧
    (joinCommand t s).txq.seqs = s.txq.seqs ∧ (joinCommand t s).trb.parser = s.trb.parser ∧
    (joinCommand t s).mgt.profile = s.mgt.profile ∧ (joinCommand t s).mgt.settings = s.mgt.settings ∧
    (joinCommand t s).mgt.mask = s.mgt.mask ∧ (joinCommand t s).mgt.capture = s.mgt.capture ∧
    (joinCommand t s).pending = s.pending := by
  unfold joinCommand
  dsimp only
  (repeat' split) <;> simp

/-- What `leaveCommand` leaves as it is. -/
@[simp] theorem leaveCommand_frame (s : State) :
    (leaveCommand s).pins = s.pins ∧ (leaveCommand s).cleaning = s.cleaning ∧
    (leaveCommand s).breakHeld = s.breakHeld ∧ (leaveCommand s).lif.tx = s.lif.tx ∧
    (leaveCommand s).txq.seqs = s.txq.seqs ∧ (leaveCommand s).trb.parser = s.trb.parser ∧
    (leaveCommand s).mgt.profile = s.mgt.profile ∧ (leaveCommand s).mgt.settings = s.mgt.settings ∧
    (leaveCommand s).mgt.mask = s.mgt.mask ∧ (leaveCommand s).mgt.refusal = s.mgt.refusal ∧
    (leaveCommand s).mgt.capture = s.mgt.capture ∧ (leaveCommand s).pending = s.pending := by
  unfold leaveCommand
  dsimp only
  (repeat' split) <;> simp

/-- What `flushCommand` leaves as it is. -/
@[simp] theorem flushCommand_frame (c : Class) (s : State) :
    (flushCommand c s).pins = s.pins ∧ (flushCommand c s).cleaning = s.cleaning ∧
    (flushCommand c s).breakHeld = s.breakHeld ∧ (flushCommand c s).lif.tx = s.lif.tx ∧
    (flushCommand c s).txq.seqs = s.txq.seqs ∧ (flushCommand c s).trb.parser = s.trb.parser ∧
    (flushCommand c s).mgt.profile = s.mgt.profile ∧ (flushCommand c s).mgt.settings = s.mgt.settings ∧
    (flushCommand c s).mgt.mask = s.mgt.mask ∧ (flushCommand c s).mgt.refusal = s.mgt.refusal ∧
    (flushCommand c s).mgt.capture = s.mgt.capture ∧ (flushCommand c s).pending = s.pending := by
  unfold flushCommand
  (repeat' split) <;> simp

/-- What `completeEventsRead` leaves as it is. -/
@[simp] theorem completeEventsRead_frame (s : State) :
    (completeEventsRead s).pins = s.pins ∧ (completeEventsRead s).cleaning = s.cleaning ∧
    (completeEventsRead s).breakHeld = s.breakHeld ∧ (completeEventsRead s).lif = s.lif ∧
    (completeEventsRead s).cyc = s.cyc ∧ (completeEventsRead s).ssu = s.ssu ∧ (completeEventsRead s).alc = s.alc ∧
    (completeEventsRead s).txq = s.txq ∧ (completeEventsRead s).ras = s.ras ∧ (completeEventsRead s).dlv = s.dlv ∧
    (completeEventsRead s).trb = s.trb ∧ (completeEventsRead s).mgt.profile = s.mgt.profile ∧
    (completeEventsRead s).mgt.settings = s.mgt.settings ∧ (completeEventsRead s).mgt.arisen = s.mgt.arisen ∧
    (completeEventsRead s).mgt.mask = s.mgt.mask ∧ (completeEventsRead s).mgt.refusal = s.mgt.refusal ∧
    (completeEventsRead s).mgt.counters = s.mgt.counters ∧ (completeEventsRead s).freeIx = s.freeIx ∧
    (completeEventsRead s).pending = s.pending := by
  unfold completeEventsRead
  (repeat' split) <;> simp

/-- What `completeCounterRead` leaves as it is. -/
@[simp] theorem completeCounterRead_frame (c : Counter) (s : State) :
    (completeCounterRead c s).pins = s.pins ∧ (completeCounterRead c s).cleaning = s.cleaning ∧
    (completeCounterRead c s).breakHeld = s.breakHeld ∧ (completeCounterRead c s).lif = s.lif ∧
    (completeCounterRead c s).cyc = s.cyc ∧ (completeCounterRead c s).ssu = s.ssu ∧
    (completeCounterRead c s).alc = s.alc ∧ (completeCounterRead c s).txq = s.txq ∧
    (completeCounterRead c s).ras = s.ras ∧ (completeCounterRead c s).dlv = s.dlv ∧
    (completeCounterRead c s).trb = s.trb ∧ (completeCounterRead c s).mgt.profile = s.mgt.profile ∧
    (completeCounterRead c s).mgt.settings = s.mgt.settings ∧ (completeCounterRead c s).mgt.events = s.mgt.events ∧
    (completeCounterRead c s).mgt.arisen = s.mgt.arisen ∧ (completeCounterRead c s).mgt.mask = s.mgt.mask ∧
    (completeCounterRead c s).mgt.refusal = s.mgt.refusal ∧ (completeCounterRead c s).freeIx = s.freeIx ∧
    (completeCounterRead c s).pending = s.pending := by
  unfold completeCounterRead
  (repeat' split) <;> simp

end Sys2Proof.Machine
end

