-- ==== Sys2Proof/Laws/Conditions.lean ====
section
/-! SUPPORT. What each condition of the model says, as a proposition: for provers to cite in place of unfolding it. -/

namespace Sys2Proof.Machine

theorem Timer.reached_running (since limit t : Time) :
    (Timer.running since).reached limit t = true ↔ since + limit ≤ t := by
  simp [Timer.reached]

theorem Timer.reached_stopped (limit t : Time) : Timer.stopped.reached limit t = false := rfl

theorem slotBeforeEnd_iff (i : Nat) (c : Cyc) :
    slotBeforeEnd i c = true ↔
      ∃ d e, c.dataStart = some d ∧ c.dataEnd = some e ∧ d + slotsTime dataSlotTime i < e := by
  unfold slotBeforeEnd
  cases c.dataStart <;> cases c.dataEnd <;> simp

theorem slotBeforeEnd_of_ends (i : Nat) (c : Cyc) (d e : Time) (hd : c.dataStart = some d) (he : c.dataEnd = some e) :
    slotBeforeEnd i c = decide (d + slotsTime dataSlotTime i < e) := by
  simp [slotBeforeEnd, hd, he]

theorem inTime_iff (nominal spanEnd : Time) (r : Reception) :
    inTime nominal spanEnd r = true ↔
      nominal - halfWindow ≤ r.start ∧ r.start ≤ nominal + halfWindow ∧ r.stop < spanEnd := by
  simp [inTime, and_assoc]

theorem judgeBits_eq_some (p : Profile) (part : CyclePart) (bits : List Bool) (f : Frame) :
    judgeBits p part bits = some f ↔
      frameOfBits bits = some f ∧ kindAllowed part f.kind = true ∧ fieldsOk p part f = true := by
  unfold judgeBits
  cases h : frameOfBits bits with
  | none => simp
  | some g =>
    by_cases hg : (kindAllowed part g.kind && fieldsOk p part g) = true
    · simp only [hg, if_true, Option.some.injEq]
      rw [Bool.and_eq_true] at hg
      constructor
      · rintro rfl; exact ⟨rfl, hg⟩
      · exact fun h => h.1
    · simp only [hg]
      constructor
      · intro h; exact absurd h (by simp)
      · rintro ⟨h1, h2⟩
        cases h1
        exact absurd (by rw [Bool.and_eq_true]; exact h2) hg

/-- A slot is Valid with exactly one reception, in time, whose frame passes R2 and R4 and the echo comparison. -/
theorem classifySlot_eq_valid (p : Profile) (part : CyclePart) (nominal spanEnd : Time) (own : Option Frame)
    (line : SpanLine) (f : Frame) (r : Reception) :
    classifySlot p part nominal spanEnd own line = .valid f r ↔
      line = ⟨false, [r], none⟩ ∧ judgeBits p part r.bits = some f ∧ inTime nominal spanEnd r = true ∧
        echoAgrees own f = true := by
  rcases line with ⟨a, heard, b⟩
  unfold classifySlot
  rcases heard with _ | ⟨q, _ | ⟨q', rest⟩⟩
  · cases own <;> cases a <;> cases b <;> simp
  · cases a <;> cases b <;> simp
    cases h : judgeBits p part q.bits with
    | none =>
      simp only [reduceCtorEq, false_iff]
      rintro ⟨rfl, h2, -⟩
      rw [h] at h2
      exact absurd h2 (by simp)
    | some g =>
      by_cases hg : inTime nominal spanEnd q = true ∧ echoAgrees own g = true
      · simp only [hg, and_self, if_true, SlotClass.valid.injEq]
        constructor
        · rintro ⟨rfl, rfl⟩; exact ⟨rfl, h, hg⟩
        · rintro ⟨rfl, h2, -⟩
          rw [h] at h2
          exact ⟨Option.some.inj h2, rfl⟩
      · simp only [hg, if_false, reduceCtorEq, false_iff]
        rintro ⟨rfl, h2, h3⟩
        rw [h] at h2
        cases h2
        exact hg h3
  · cases a <;> cases b <;> simp

/-- A Silent slot: no carrier at any moment, and no own frame (R9). -/
theorem classifySlot_eq_silent (p : Profile) (part : CyclePart) (nominal spanEnd : Time) (own : Option Frame)
    (line : SpanLine) :
    classifySlot p part nominal spanEnd own line = .silent ↔ own = none ∧ line = ⟨false, [], none⟩ := by
  rcases line with ⟨a, heard, b⟩
  unfold classifySlot
  rcases heard with _ | ⟨q, _ | ⟨q', rest⟩⟩
  · cases own <;> cases a <;> cases b <;> simp
  · cases own <;> cases a <;> cases b <;> simp <;> (repeat' split) <;> simp
  · cases own <;> cases a <;> cases b <;> simp

/-- An echo passes where some reception of the span, in time, is the Valid frame that was sent (R11). -/
theorem echoPassed_iff (p : Profile) (part : CyclePart) (nominal spanEnd : Time) (own : Option Frame) (line : SpanLine) :
    echoPassed p part nominal spanEnd own line = true ↔
      ∃ f, own = some f ∧ ∃ r ∈ line.heard, inTime nominal spanEnd r = true ∧ judgeBits p part r.bits = some f := by
  cases own with
  | none => simp [echoPassed]
  | some f => simp [echoPassed]

/-- The own frame of a slot that is Valid has passed its echo comparison (R9, R11). -/
theorem echoPassed_of_valid {p : Profile} {part : CyclePart} {nominal spanEnd : Time} {own f : Frame} {line : SpanLine}
    {r : Reception} (h : classifySlot p part nominal spanEnd (some own) line = .valid f r) :
    f = own ∧ echoPassed p part nominal spanEnd (some own) line = true := by
  rw [classifySlot_eq_valid] at h
  obtain ⟨h1, h2, h3, h4⟩ := h
  have hf : f = own := by simpa [echoAgrees] using h4
  subst hf
  exact ⟨rfl, (echoPassed_iff _ _ _ _ _ _).mpr ⟨f, rfl, r, by simp [h1], h3, h2⟩⟩

theorem isDuplicate_iff (station : Station) (own : Bool) (s : State) :
    isDuplicate station own s = true ↔ station = ownNumber s ∧ own = false ∧ s.cyc.state.hearsDuplicates = true := by
  simp [isDuplicate, and_assoc]

theorem lineFree_iff (s : State) : lineFree s = true ↔ s.lif.tx = none ∧ s.lif.echo = none := by
  simp [lineFree]

theorem startedUnslotted_iff (r : Reception) (c : Cyc) :
    startedUnslotted r c = true ↔ ∃ t, c.unslottedUntil = some t ∧ r.start < t := by
  unfold startedUnslotted
  cases c.unslottedUntil <;> simp

theorem bidAccepted_iff (p : Profile) (f : BidFrame) :
    bidAccepted p f = true ↔
      flagClash f = false ∧ f.check = p.check ∧ f.demand.c0.toNat ≤ p.budget ∧ f.demand.c1.toNat ≤ p.budget ∧
        f.demand.c2.toNat ≤ p.budget ∧ f.demand.c3.toNat ≤ p.budget := by
  simp [bidAccepted, and_assoc]

theorem flagClash_eq_false (f : BidFrame) :
    flagClash f = false ↔
      ¬(f.leaving = true ∧ f.resync = true) ∧ ¬(f.leaving = true ∧ f.joining = true) ∧
        ¬(f.resync = true ∧ f.joining = true) := by
  cases h1 : f.leaving <;> cases h2 : f.resync <;> cases h3 : f.joining <;> simp [flagClash, h1, h2, h3]

theorem placedBefore_iff (k : Nat) (c : Cyc) :
    placedBefore k c = true ↔
      ∃ a, c.annStart = some a ∧ ∀ t, c.fixedAt = some t → t < a + us 6 * (k : Int) - 500 := by
  unfold placedBefore
  cases c.annStart <;> cases c.fixedAt <;> simp [slotsTime, bidSlotTime, halfWindow]
  exact decide_eq_true_iff

theorem bidPlaceable_iff (s : State) :
    bidPlaceable s = true ↔
      s.cyc.timingLock = true ∧ s.cyc.position = .announce (ownNumber s).val ∧
        (s.cyc.bids.record (ownNumber s).val).status = .unheard ∧ placedBefore (ownNumber s).val s.cyc = true := by
  simp [bidPlaceable, and_assoc]

theorem decides_iff (s : State) :
    decides s = true ↔
      (s.cyc.state = .inStep ∨ s.cyc.state = .outOfStep) ∧ s.cyc.bids.damage = false ∧
        allClassified s.cyc.bids s.mgt.profile.lineSize = true := by
  simp [decides, and_assoc]

theorem allClassified_iff (t : BidTable) (n : Nat) :
    allClassified t n = true ↔
      ∀ r ∈ t.records.take n, r.status ≠ .unheard ∧ ¬(r.entered15 = true ∧ r.status = .damaged) := by
  simp only [allClassified, List.all_eq_true]
  refine forall₂_congr fun r _ => ?_
  cases r.entered15 <;> simp

theorem mayJoin_iff (s : State) :
    mayJoin s = true ↔
      s.cyc.timingLock = true ∧ allClassified s.cyc.bids s.mgt.profile.lineSize = true ∧
        (s.cyc.bids.record (ownNumber s).val).status = .silent ∧ s.cyc.profileChecked = true := by
  simp [mayJoin, and_assoc]

theorem tablePasses_iff (p : Profile) (f : TableFrame) :
    tablePasses p f = true ↔
      f.check = p.check ∧ f.digest = crc16 f.body ∧ withinBounds p (Sched.ofBytes f.body) = true ∧
        ((Sched.ofBytes f.body).row f.src).member = true := by
  simp [tablePasses, and_assoc]

theorem forThisStation_iff (s : State) (d : Destination) :
    forThisStation s d = true ↔
      d = .station (ownNumber s) ∨ d = .all ∨ ∃ g, d = .group g ∧ s.mgt.settings.groups.getLsbD g.val = true := by
  cases d <;> simp [forThisStation]

theorem continues_iff (c : Context) (f : SegmentFrame) :
    continues c f = true ↔
      f.seq = c.seq ∧ f.index.toNat = c.next ∧ f.tag = c.tag ∧ f.dest = c.dest ∧ f.len.toNat = c.len := by
  simp [continues, and_assoc]

theorem findContext_eq_some {src : Station} {cls : Class} {s : State} {c : Context}
    (h : findContext src cls s = some c) : c ∈ s.ras.contexts ∧ c.src = src ∧ c.cls = cls := by
  unfold findContext at h
  have h1 := List.mem_of_find?_eq_some h
  have h2 := List.find?_some h
  simp at h2
  exact ⟨h1, h2.1, h2.2⟩

theorem findContext_eq_none {src : Station} {cls : Class} {s : State} :
    findContext src cls s = none ↔ ∀ c ∈ s.ras.contexts, ¬(c.src = src ∧ c.cls = cls) := by
  simp [findContext, List.find?_eq_none]

theorem evalidPin_emitting (s : State) (rec : EgressRecord) (i : Nat) (h : s.trb.framer = .emitting rec i) :
    evalidPin s = !s.pins.resetPin := by
  simp [evalidPin, h]

theorem evalidPin_breakPending (s : State) (h : s.trb.framer = .breakPending) :
    evalidPin s = (!s.pins.resetPin && !s.breakHeld) := by
  simp [evalidPin, h]

theorem evalidPin_idle (s : State) (h : s.trb.framer = .idle) : evalidPin s = false := by
  simp [evalidPin, h]

theorem joinValidation_eq_none (p : Profile) (l : LocalSettings) :
    joinValidation p l = .none ↔
      (2 ≤ p.lineSize ∧ p.lineSize ≤ 16) ∧ (8 ≤ p.budget ∧ p.budget ≤ 128) ∧ p.cap ≤ p.budget ∧
        ((1 ≤ p.quantum 1 ∧ p.quantum 1 ≤ 32) ∧ (1 ≤ p.quantum 2 ∧ p.quantum 2 ≤ 32) ∧
          (1 ≤ p.quantum 3 ∧ p.quantum 3 ≤ 32)) ∧
        (2 ≤ p.limit ∧ p.limit ≤ 7) ∧ l.station.toNat < p.lineSize ∧
        ((1 ≤ l.weights.c0.toNat ∧ l.weights.c0.toNat ≤ 8) ∧ (1 ≤ l.weights.c1.toNat ∧ l.weights.c1.toNat ≤ 8) ∧
          (1 ≤ l.weights.c2.toNat ∧ l.weights.c2.toNat ≤ 8) ∧ (1 ≤ l.weights.c3.toNat ∧ l.weights.c3.toNat ≤ 8)) := by
  unfold joinValidation
  simp only [List.any_cons, List.any_nil, Bool.or_false, Bool.or_eq_true, decide_eq_true_eq]
  constructor
  · intro h
    split at h
    · exact absurd h (by simp)
    split at h
    · exact absurd h (by simp)
    split at h
    · exact absurd h (by simp)
    split at h
    · exact absurd h (by simp)
    split at h
    · exact absurd h (by simp)
    split at h
    · exact absurd h (by simp)
    split at h
    · exact absurd h (by simp)
    omega
  · intro h
    rw [if_neg (by omega), if_neg (by omega), if_neg (by omega), if_neg (by omega), if_neg (by omega),
      if_neg (by omega), if_neg (by omega)]

end Sys2Proof.Machine
end

