-- ==== Sys2Proof/Laws/Formats.lean ====
section
/-! SUPPORT. The small lemmas of the formats: bits and bytes, the delimiter, the head byte, destinations (11.1), and the
bits of an SPI transaction (R165). -/

namespace Sys2Proof.Machine

@[simp] theorem byteBits_length (b : Byte) : (byteBits b).length = 8 := rfl

theorem flatMap_byteBits_length (bs : List Byte) : (bs.flatMap byteBits).length = 8 * bs.length := by
  induction bs with
  | nil => rfl
  | cons b bs ih => simp [List.flatMap_cons, ih]; omega

@[simp] theorem msbBits_length {n : Nat} (v : BitVec n) : (msbBits v).length = n := by simp [msbBits]

/-- A number is read from its bits as they were sent (R165). -/
theorem msbValue_msbBits {n : Nat} (v : BitVec n) : msbValue n (msbBits v) = v := by
  have h : ∀ (m : Nat) (hm : m ≤ n),
      ((List.range m).map (fun i => v.getLsbD (n - 1 - i))).foldl (fun acc b => 2 * acc + b.toNat) 0 =
        v.toNat / 2 ^ (n - m) := by
    intro m
    induction m with
    | zero => intro _; simp [Nat.div_eq_of_lt v.isLt]
    | succ m ih =>
      intro hm
      rw [List.range_succ, List.map_append, List.foldl_append, ih (by omega)]
      simp only [List.map_cons, List.map_nil, List.foldl_cons, List.foldl_nil]
      have e : n - m = (n - 1 - m) + 1 := by omega
      have e2 : n - (m + 1) = n - 1 - m := by omega
      rw [e, e2, Nat.pow_succ, ← Nat.div_div_eq_div_mul, BitVec.getLsbD, Nat.testBit_eq_decide_div_mod_eq]
      rcases Nat.mod_two_eq_zero_or_one (v.toNat / 2 ^ (n - 1 - m)) with h0 | h0 <;> simp [h0] <;> omega
  unfold msbValue msbBits
  rw [h n (Nat.le_refl n)]
  simp

/-- The fields of a transaction are read as they were sent (R165). -/
theorem spiBits_fields (write : Bool) (addr : BitVec 7) (data : Half) :
    (spiBits write addr data).length = 24 ∧ spiWrites (spiBits write addr data) = write ∧
      spiAddr (spiBits write addr data) = addr ∧ spiData (spiBits write addr data) = data := by
  have h1 : (msbBits addr ++ msbBits data).take 7 = msbBits addr := by
    rw [List.take_append_of_le_length (by simp), List.take_of_length_le (by simp)]
  have h2 : (msbBits addr ++ msbBits data).drop 7 = msbBits data := by
    rw [List.drop_append_of_le_length (by simp), List.drop_of_length_le (by simp), List.nil_append]
  refine ⟨by simp [spiBits], rfl, ?_, ?_⟩
  · simp only [spiAddr, spiBits, List.drop_succ_cons, List.drop_zero, h1, msbValue_msbBits]
  · simp only [spiData, spiBits, List.drop_succ_cons, h2]
    rw [List.take_of_length_le (by simp), msbValue_msbBits]

/-- A byte is read from its bits as it was sent. -/
theorem takeByte_byteBits (b : Byte) (rest : List Bool) : takeByte (byteBits b ++ rest) = some (b, rest) := by
  have h : byteOfBits (b.getLsbD 7) (b.getLsbD 6) (b.getLsbD 5) (b.getLsbD 4) (b.getLsbD 3) (b.getLsbD 2)
      (b.getLsbD 1) (b.getLsbD 0) = b := by
    revert b; decide +kernel
  simp only [byteBits, List.cons_append, List.nil_append, takeByte, h]

/-- Bytes are read from their bits as they were sent, whatever follows. -/
theorem takeBytes_flatMap (bs : List Byte) (rest : List Bool) :
    takeBytes bs.length (bs.flatMap byteBits ++ rest) = some (bs, rest) := by
  induction bs with
  | nil => rfl
  | cons b bs ih => simp only [List.length_cons, takeBytes, List.flatMap_cons, List.append_assoc, takeByte_byteBits, ih]

/-- A carrier that begins with the preamble and the delimiter is read from the bit behind them. -/
theorem afterDelimiter_syncBits (rest : List Bool) : afterDelimiter (syncBits ++ rest) = some rest := by
  have h : syncBits = [true, false, true, false, true, false, true, false, true, false, false, true, true, false, true,
      true] := by decide
  rw [h]
  simp [afterDelimiter, h]

theorem FrameKind.ofCode_code (k : FrameKind) : FrameKind.ofCode k.code = some k := by cases k <;> decide

theorem halfOf_hiByte_loByte (h : Half) : halfOf (hiByte h) (loByte h) = h := by
  unfold halfOf hiByte loByte
  ext i hi
  simp only [BitVec.getElem_append, BitVec.getElem_extractLsb']
  split
  · simp [hi]
  · rename_i h8
    have : 8 + (i - 8) = i := by omega
    rw [this]
    simp [hi]

theorem hiByte_halfOf (hi lo : Byte) : hiByte (halfOf hi lo) = hi := by
  unfold hiByte halfOf
  ext i h
  rw [BitVec.getElem_extractLsb']
  refine (BitVec.getLsbD_append (x := hi) (y := lo) (i := 8 + i)).trans ?_
  rw [if_neg (by omega), Nat.add_sub_cancel_left, BitVec.getLsbD_eq_getElem h]

theorem loByte_halfOf (hi lo : Byte) : loByte (halfOf hi lo) = lo := by
  unfold loByte halfOf
  ext i h
  rw [BitVec.getElem_extractLsb', Nat.zero_add]
  refine (BitVec.getLsbD_append (x := hi) (y := lo) (i := i)).trans ?_
  rw [if_pos h, BitVec.getLsbD_eq_getElem h]

/-- The digest of a schedule state is the CRC of its serialisation (R65). -/
theorem Sched.digest_eq (d : Sched) : d.digest = crc16 d.serialise := rfl

/-- The fields of a head byte are read as they were written. -/
theorem headByte_fields (st : Station) (c : Class) (b1 b0 : Bool) :
    headStation (headByte st c b1 b0) = st ∧ headClass (headByte st c b1 b0) = c ∧
      (headByte st c b1 b0).getLsbD 1 = b1 ∧ (headByte st c b1 b0).getLsbD 0 = b0 := by
  revert st c b1 b0; decide +kernel

/-- A destination is read from its byte as it was written. -/
theorem destOf_destByte (d : Destination) :
    destOf ((destByte d).extractLsb' 6 2) ((destByte d).extractLsb' 0 4) = d := by
  cases d with
  | station k => revert k; decide +kernel
  | group g => revert g; decide +kernel
  | all => decide
  | reserved k => revert k; decide +kernel

/-- The number of body bytes of a frame is its kind's (11.1). -/
theorem Frame.body_length (f : Frame) (hs : ∀ g, f = .segment g → g.payload.length = 32)
    (ht : ∀ g, f = .table g → g.body.length = 69) : f.body.length = f.kind.bodyLength := by
  cases f with
  | segment g => simp [Frame.body, segmentBody, hs g rfl, Frame.kind, FrameKind.bodyLength]
  | table g => simp [Frame.body, tableBody, ht g rfl, Frame.kind, FrameKind.bodyLength]
  | _ => rfl

/-- A byte that is read stands first in the bits. -/
theorem takeByte_eq_some {bits rest : List Bool} {b : Byte} (h : takeByte bits = some (b, rest)) :
    bits = byteBits b ++ rest := by
  unfold takeByte at h
  split at h
  · simp only [Option.some.injEq, Prod.mk.injEq] at h
    obtain ⟨h, rfl⟩ := h
    subst h
    rename_i a b c d e f g i r
    have : byteBits (byteOfBits a b c d e f g i) = [a, b, c, d, e, f, g, i] := by revert a b c d e f g i; decide
    rw [this]; rfl
  · cases h

/-- Bytes that are read stand first in the bits. -/
theorem takeBytes_eq_some {n : Nat} {bits rest : List Bool} {bs : List Byte}
    (h : takeBytes n bits = some (bs, rest)) : bs.length = n ∧ bits = bs.flatMap byteBits ++ rest := by
  induction n generalizing bits bs with
  | zero => simp [takeBytes] at h; obtain ⟨rfl, rfl⟩ := h; simp
  | succ n ih =>
    unfold takeBytes at h
    split at h
    · cases h
    · rename_i b r hb
      split at h
      · cases h
      · rename_i bs' r' h2
        simp only [Option.some.injEq, Prod.mk.injEq] at h
        obtain ⟨rfl, rfl⟩ := h
        obtain ⟨h3, h4⟩ := ih h2
        subst h4
        simp [h3, takeByte_eq_some hb]

/-- What is read behind a delimiter has the preamble byte and the delimiter before it. -/
theorem afterDelimiter_eq_some {bits rest : List Bool} (h : afterDelimiter bits = some rest) :
    ∃ pre, bits = pre ++ syncBits ++ rest := by
  induction bits with
  | nil => cases h
  | cons b bits ih =>
    unfold afterDelimiter at h
    split at h
    · rename_i hp
      simp only [Option.some.injEq] at h
      obtain ⟨t, ht⟩ := List.isPrefixOf_iff_prefix.mp hp
      refine ⟨[], ?_⟩
      rw [← ht] at h ⊢
      have h16 : syncBits.length = 16 := by decide
      have : (syncBits ++ t).drop 16 = t := by simp [h16]
      rw [this] at h; subst h; rfl
    · obtain ⟨p, hp⟩ := ih h
      exact ⟨b :: p, by simp [hp]⟩

theorem FrameKind.code_of_ofCode {c : Byte} {k : FrameKind} (h : FrameKind.ofCode c = some k) : c = k.code := by
  revert h c; cases k <;> decide +kernel

/-- The kind, body and check of a frame that has been sent pass conditions 1 to 4 of R2; what remains is its body. -/
theorem frameOfBits_bits (f : Frame) (h : f.body.length = f.kind.bodyLength) :
    frameOfBits f.bits = decodeBody f.kind f.body := by
  have hb : f.bits = syncBits ++ (byteBits f.kind.code ++ (f.body.flatMap byteBits ++
      ([hiByte (crc16 (f.kind.code :: f.body)), loByte (crc16 (f.kind.code :: f.body))].flatMap byteBits ++ []))) := by
    simp only [Frame.bits, Frame.bytes, syncBits, List.flatMap_append, List.flatMap_cons, List.append_assoc,
      List.append_nil, List.flatMap_nil]
  have h2 := takeBytes_flatMap [hiByte (crc16 (f.kind.code :: f.body)), loByte (crc16 (f.kind.code :: f.body))] []
  have h1 := takeBytes_flatMap f.body
    ([hiByte (crc16 (f.kind.code :: f.body)), loByte (crc16 (f.kind.code :: f.body))].flatMap byteBits ++ [])
  rw [h] at h1
  simp only [List.length_cons, List.length_nil] at h2
  simp only [frameOfBits, hb, afterDelimiter_syncBits, takeByte_byteBits, FrameKind.ofCode_code, h1, h2]
  simp

/-- Everything a reception that carries a frame holds (R2, conditions 1 to 4): the delimiter, the kind's code, a body
of the kind's length that is read as the frame, the check of code and body, and at most 8 bits behind it. -/
theorem frameOfBits_eq_some {bits : List Bool} {f : Frame} (h : frameOfBits bits = some f) :
    ∃ (pre tail : List Bool) (k : FrameKind) (body : List Byte),
      bits = pre ++ (syncBytes ++ (k.code :: body) ++
        [hiByte (crc16 (k.code :: body)), loByte (crc16 (k.code :: body))]).flatMap byteBits ++ tail ∧
      tail.length ≤ 8 ∧ body.length = k.bodyLength ∧ decodeBody k body = some f := by
  unfold frameOfBits at h
  split at h; · cases h
  rename_i r h1; split at h; · cases h
  rename_i c r2 h2; split at h; · cases h
  rename_i k h3; split at h; · cases h
  rename_i body r3 h4; split at h; · cases h
  rename_i check tail h5; split at h
  · rename_i hh
    simp only [Bool.and_eq_true, decide_eq_true_eq, beq_iff_eq] at hh
    obtain ⟨ht, rfl⟩ := hh
    obtain ⟨pre, rfl⟩ := afterDelimiter_eq_some h1
    obtain ⟨hl, e2⟩ := takeBytes_eq_some h4
    obtain rfl := FrameKind.code_of_ofCode h3
    refine ⟨pre, tail, k, body, ?_, ht, hl, h⟩
    rw [takeByte_eq_some h2, e2, (takeBytes_eq_some h5).2]
    simp [syncBits]
  · cases h

end Sys2Proof.Machine
end

