-- ==== Sys2Proof/Laws/Pools.lean ====
section
/-! SUPPORT. What each shared operation does to the two pools and to the capacities: one lemma for each, for provers to
cite in place of unfolding it. -/

namespace Sys2Proof.Machine

/-- The buffers of the receive pool, wherever they are (R119). -/
def rxTotal (s : State) : Nat :=
  s.ras.free + contextBuffers s.ras.contexts + deliveryBuffers s.dlv + s.trb.framer.buffers

/-- The buffers of the transmit pool, wherever they are (R95). -/
def txTotal (s : State) : Nat := s.txq.free + txHeld s.txq

theorem rxPoolLaw_iff (s : State) : RxPoolLaw s ↔ rxTotal s = 512 := Iff.rfl

theorem txPoolLaw_iff (s : State) : TxPoolLaw s ↔ txTotal s = 256 := Iff.rfl

/-! ### Sums -/

@[simp] theorem recordBuffers_nil : recordBuffers [] = 0 := rfl

@[simp] theorem recordBuffers_cons (r : DeliveredRecord) (rs : List DeliveredRecord) :
    recordBuffers (r :: rs) = r.bufs.length + recordBuffers rs := by simp [recordBuffers]

@[simp] theorem recordBuffers_append (a b : List DeliveredRecord) :
    recordBuffers (a ++ b) = recordBuffers a + recordBuffers b := by simp [recordBuffers]

/-- One delivery queue replaced: the loans change by that queue's. -/
theorem deliveryBuffers_set (d : Dlv) (q : Class) (rs : List DeliveredRecord) :
    deliveryBuffers { d with queues := d.queues.set q rs } + recordBuffers (d.queues.get q)
      = deliveryBuffers d + recordBuffers rs := by
  fin_cases q <;> simp [deliveryBuffers, fourSum, Four.set, Four.get] <;> omega

@[simp] theorem contextBuffers_nil : contextBuffers [] = 0 := rfl

@[simp] theorem contextBuffers_cons (c : Context) (cs : List Context) :
    contextBuffers (c :: cs) = c.bufs.length + contextBuffers cs := by simp [contextBuffers]

@[simp] theorem contextBuffers_append (a b : List Context) :
    contextBuffers (a ++ b) = contextBuffers a + contextBuffers b := by simp [contextBuffers]

/-- A context taken out of the table. -/
theorem contextBuffers_erase {cs : List Context} {c : Context} (h : c ∈ cs) :
    contextBuffers (cs.erase c) + c.bufs.length = contextBuffers cs := by
  have := (List.perm_cons_erase h).map (fun c : Context => c.bufs.length)
  have := this.sum_eq
  simp only [List.map_cons, List.sum_cons] at this
  simp only [contextBuffers]
  omega

/-- A context changed in place, its buffers as many as before. -/
theorem contextBuffers_replace (cs : List Context) (c c' : Context) (h : c'.bufs.length = c.bufs.length) :
    contextBuffers (cs.map (fun x => if x = c then c' else x)) = contextBuffers cs := by
  simp only [contextBuffers, List.map_map]
  congr 1
  apply List.map_congr_left
  intro x _
  by_cases hx : x = c
  · simp [hx, h]
  · simp [hx]

@[simp] theorem queueBuffers_nil : queueBuffers [] = 0 := rfl

@[simp] theorem queueBuffers_cons (d : Descriptor) (q : List Descriptor) :
    queueBuffers (d :: q) = d.bufs.length + queueBuffers q := by simp [queueBuffers]

@[simp] theorem queueBuffers_append (a b : List Descriptor) :
    queueBuffers (a ++ b) = queueBuffers a + queueBuffers b := by simp [queueBuffers]

/-- One class queue replaced: the buffers held change by that queue's. -/
theorem txHeld_set (x : Txq) (free : Nat) (c : Class) (q : List Descriptor) (seqs : Four Byte) (i : IngressRecord) :
    txHeld ⟨free, x.queues.set c q, seqs, i⟩ + queueBuffers (x.queues.get c) = txHeld x + queueBuffers q := by
  fin_cases c <;> simp [txHeld, fourSum, Four.set, Four.get] <;> omega

/-- The tail of a queue changed, its buffers as many as before. -/
theorem queueBuffers_mapLast (f : Descriptor → Descriptor) (h : ∀ d, (f d).bufs.length = d.bufs.length) :
    ∀ q : List Descriptor, queueBuffers (mapLast f q) = queueBuffers q
  | [] => rfl
  | [d] => by simp [mapLast, h]
  | d :: e :: rest => by
    have := queueBuffers_mapLast f h (e :: rest)
    simp [mapLast, this]

@[simp] theorem length_mapLast {α : Type} (f : α → α) : ∀ l : List α, (mapLast f l).length = l.length
  | [] => rfl
  | [a] => rfl
  | a :: b :: rest => by
    have := length_mapLast f (b :: rest)
    simp [mapLast, this]

@[simp] theorem length_writeWord (bufs : List (List Byte)) (p : Nat) (bs : List Byte) :
    (writeWord bufs p bs).length = bufs.length := by simp [writeWord]

@[simp] theorem length_zeroBeyond (n : Nat) (bufs : List (List Byte)) : (zeroBeyond n bufs).length = bufs.length := by
  simp [zeroBeyond]

/-- The last descriptor of a queue taken off. -/
theorem queueBuffers_dropLast (q : List Descriptor) (d : Descriptor) (h : q.getLast? = some d) :
    queueBuffers q.dropLast + d.bufs.length = queueBuffers q := by
  have hq : q = q.dropLast ++ [d] := by
    have hne : q ≠ [] := by rintro rfl; simp at h
    have hl := List.dropLast_concat_getLast hne
    rw [List.getLast?_eq_getLast_of_ne_nil hne] at h
    simp only [Option.some.injEq] at h
    rw [h] at hl
    exact hl.symm
  conv_rhs => rw [hq]
  simp

/-! ### The receive pool -/

@[simp] theorem raiseEvent_rxTotal (e : Event) (s : State) : rxTotal (raiseEvent e s) = rxTotal s := rfl

@[simp] theorem countEvent_rxTotal (c : Counter) (s : State) : rxTotal (countEvent c s) = rxTotal s := rfl

@[simp] theorem returnBuffers_rxTotal (n : Nat) (s : State) : rxTotal (returnBuffers n s) = rxTotal s + n := by
  simp only [rxTotal, returnBuffers]; omega

/-- An emission that begins at idle egress keeps its buffers on loan (R147). -/
theorem beginDelivery_rxTotal (q : Class) (s : State) (h : s.trb.framer = .idle) :
    rxTotal (beginDelivery q s) = rxTotal s := by
  unfold beginDelivery
  split
  · rfl
  · rename_i r rest hq
    have := deliveryBuffers_set s.dlv q rest
    simp only [rxTotal, h, Framer.buffers, EgressRecord.buffers]
    rw [hq] at this
    simp only [recordBuffers_cons] at this
    omega

theorem arbitrateDelivery_rxTotal (s : State) (h : s.trb.framer = .idle) :
    rxTotal (arbitrateDelivery s) = rxTotal s := by
  unfold arbitrateDelivery
  (repeat' split) <;> first
    | rfl
    | (refine (beginDelivery_rxTotal _ _ ?_).trans ?_ <;> first | exact h | rfl)

@[simp] theorem arbitrate_rxTotal (s : State) : rxTotal (arbitrate s) = rxTotal s := by
  unfold arbitrate
  split
  · rename_i hf
    split
    · simp [rxTotal, hf, Framer.buffers, EgressRecord.buffers, deliveryBuffers]
    · exact arbitrateDelivery_rxTotal s hf
  · rfl
  · rfl

@[simp] theorem takeNotice_rxTotal (n : Notice) (s : State) : rxTotal (takeNotice n s) = rxTotal s := by
  unfold takeNotice
  split
  · rw [arbitrate_rxTotal]; rfl
  · rfl

@[simp] theorem takeNotices_rxTotal (ns : List Notice) (s : State) : rxTotal (takeNotices ns s) = rxTotal s := by
  unfold takeNotices
  induction ns generalizing s with
  | nil => rfl
  | cons n ns ih => rw [List.foldl_cons, ih, takeNotice_rxTotal]

@[simp] theorem raiseRefused_rxTotal (k : RefusalCause) (c : Class) (tag : Byte) (s : State) :
    rxTotal (raiseRefused k c tag s) = rxTotal s := by
  unfold raiseRefused
  rw [takeNotice_rxTotal, countEvent_rxTotal]

/-- A record offered brings its buffers into the pool's count, on loan or free (R139). -/
@[simp] theorem offerRecord_rxTotal (q : Class) (r : DeliveredRecord) (s : State) :
    rxTotal (offerRecord q r s) = rxTotal s + r.bufs.length := by
  unfold offerRecord
  split
  · rw [arbitrate_rxTotal]
    have := deliveryBuffers_set s.dlv q (s.dlv.queues.get q ++ [r])
    simp only [recordBuffers_append, recordBuffers_cons, recordBuffers_nil] at this
    simp only [rxTotal]
    omega
  · simp

@[simp] theorem handOff_rxTotal (r : DeliveredRecord) (s : State) :
    rxTotal (handOff r s) = rxTotal s + r.bufs.length := by
  unfold handOff
  split <;> simp

/-- An open context aborted: its buffers stay in the pool (R128, R129). -/
theorem abortContext_rxTotal (w : AbortReason) (c : Context) (s : State) (h : c ∈ s.ras.contexts) :
    rxTotal (abortContext w c s) = rxTotal s := by
  have := contextBuffers_erase h
  unfold abortContext
  dsimp only
  split
  · simp only [handOff_rxTotal, returnBuffers_rxTotal, countEvent_rxTotal, contextRecord]
    have hl : (c.bufs.drop c.next).length + (c.bufs.take c.next).length = c.bufs.length := by
      simp only [List.length_drop, List.length_take]; omega
    simp only [rxTotal]
    omega
  · simp only [returnBuffers_rxTotal, countEvent_rxTotal]
    simp only [rxTotal]
    omega

/-- What an abort leaves of the table. -/
@[simp] theorem abortContext_contexts (w : AbortReason) (c : Context) (s : State) :
    (abortContext w c s).ras.contexts = s.ras.contexts.erase c := by
  unfold abortContext
  dsimp only
  split
  · unfold handOff
    split
    · unfold offerRecord; split <;> simp [returnBuffers, countEvent]
    · simp [returnBuffers, countEvent]
  · simp [returnBuffers, countEvent]

/-- Contexts of the table aborted one after the other. -/
theorem abortEach_rxTotal (w : AbortReason) (cs : List Context) (s : State) (h : cs.Subperm s.ras.contexts) :
    rxTotal (cs.foldl (fun s c => abortContext w c s) s) = rxTotal s := by
  induction cs generalizing s with
  | nil => rfl
  | cons c cs ih =>
    have hc : c ∈ s.ras.contexts := h.subset (List.mem_cons_self ..)
    rw [List.foldl_cons, ih, abortContext_rxTotal w c s hc]
    rw [abortContext_contexts]
    have := h.erase c
    simpa using this

/-- The free order is an order: the contexts picked are those given (R130). -/
theorem pickOrder_perm (fuel ix : Nat) (cs : List Context) : (pickOrder fuel ix cs).1.Perm cs := by
  induction fuel generalizing ix cs with
  | zero => exact List.Perm.refl _
  | succ fuel ih =>
    unfold pickOrder
    split
    · exact List.Perm.refl _
    · exact List.Perm.refl _
    · rename_i c d rest
      have hi : Config.contextPick ix % (c :: d :: rest).length < (c :: d :: rest).length :=
        Nat.mod_lt _ (by simp)
      refine ((ih (ix + 1) _).cons _).trans ?_
      rw [List.getD_eq_getElem _ _ hi]
      exact List.getElem_cons_eraseIdx_perm hi

theorem abortContexts_rxTotal (w : AbortReason) (cs : List Context) (s : State) (h : cs.Subperm s.ras.contexts) :
    rxTotal (abortContexts w cs s) = rxTotal s := by
  unfold abortContexts
  rw [abortEach_rxTotal]
  · rfl
  · exact ((pickOrder_perm _ _ _).subperm).trans h

@[simp] theorem removeSources_rxTotal (rs : List Station) (s : State) : rxTotal (removeSources rs s) = rxTotal s :=
  abortContexts_rxTotal _ _ _ List.filter_sublist.subperm

@[simp] theorem rasSessionEnd_rxTotal (s : State) : rxTotal (rasSessionEnd s) = rxTotal s :=
  abortContexts_rxTotal _ _ _ (List.Subperm.refl _)

/-- A context opened, or a message completed at once, takes its buffers from the free list (R124, R125). -/
@[simp] theorem openContext_rxTotal (t : Time) (f : SegmentFrame) (s : State) :
    rxTotal (openContext t f s) = rxTotal s := by
  unfold openContext
  simp only []
  split
  · simp
  · split
    · simp
    · rename_i hfree
      simp only [List.length_cons, List.length_replicate, not_lt] at hfree
      split
      · rw [handOff_rxTotal]
        simp only [rxTotal, contextRecord, List.length_cons, List.length_replicate]
        omega
      · simp only [rxTotal, contextBuffers_append, contextBuffers_cons, contextBuffers_nil, List.length_cons,
          List.length_replicate]
        omega

@[simp] theorem firstSegment_rxTotal (t : Time) (f : SegmentFrame) (s : State) :
    rxTotal (firstSegment t f s) = rxTotal s := by
  have key : ∀ s' : State, rxTotal s' = rxTotal s →
      rxTotal (if forThisStation s' f.dest then openContext t f s' else s') = rxTotal s := by
    intro s' h
    split
    · rw [openContext_rxTotal, h]
    · exact h
  unfold firstSegment
  split
  · rename_i c hc
    exact key _ (abortContext_rxTotal _ _ _ (findContext_eq_some hc).1)
  · exact key _ rfl

@[simp] theorem laterSegment_rxTotal (t : Time) (f : SegmentFrame) (s : State) :
    rxTotal (laterSegment t f s) = rxTotal s := by
  unfold laterSegment
  split
  · rfl
  · rename_i c hc
    have hm := (findContext_eq_some hc).1
    split
    · simp only []
      split
      · have := contextBuffers_erase hm
        simp only [handOff_rxTotal, contextRecord, List.length_set]
        simp only [rxTotal]
        omega
      · simp only [rxTotal]
        rw [contextBuffers_replace _ _ _ (by simp)]
    · exact abortContext_rxTotal _ _ _ hm

@[simp] theorem takeSegment_rxTotal (t : Time) (f : SegmentFrame) (s : State) :
    rxTotal (takeSegment t f s) = rxTotal s := by
  unfold takeSegment
  (repeat' split) <;> simp

@[simp] theorem takeAbort_rxTotal (f : AbortFrame) (s : State) : rxTotal (takeAbort f s) = rxTotal s := by
  unfold takeAbort
  split
  · rfl
  · split
    · rfl
    · rename_i c hc
      split
      · exact abortContext_rxTotal _ _ _ (findContext_eq_some hc).1
      · rfl

@[simp] theorem staleExpiry_rxTotal (t : Time) (st : Station) (c : Class) (s : State) :
    rxTotal (staleExpiry t st c s) = rxTotal s := by
  unfold staleExpiry
  split
  · rfl
  · rename_i c hc
    split
    · exact abortContext_rxTotal _ _ _ (findContext_eq_some hc).1
    · rfl

/-- The word taken on egress: at the end of a record its buffers are free again (R148). -/
@[simp] theorem takeEgressWord_rxTotal (s : State) : rxTotal (takeEgressWord s) = rxTotal s := by
  unfold takeEgressWord
  split
  · rfl
  · rename_i rec i hf
    split
    · simp [rxTotal, hf, Framer.buffers]
    · rw [arbitrate_rxTotal, returnBuffers_rxTotal]
      simp only [rxTotal, hf, Framer.buffers]
      omega
  · rename_i hf
    rw [arbitrate_rxTotal]
    simp [rxTotal, hf, Framer.buffers]

/-! ### The transmit pool -/

/-- An operation that leaves TXQ as it is leaves the transmit pool as it is. -/
theorem txTotal_of_txq {s t : State} (h : t.txq = s.txq) : txTotal t = txTotal s := by simp only [txTotal, h]

/-- A header taken: the buffers of an admitted message pass from the free list to it (R102). -/
@[simp] theorem headerTaken_txTotal (h : FirstHead) (tag : Byte) (len : Nat) (s : State) :
    txTotal (headerTaken h tag len s) = txTotal s := by
  unfold headerTaken
  split
  · rfl
  · rename_i hn
    have hfree : segmentCount len ≤ s.txq.free := by
      unfold admissionCheck at hn
      split_ifs at hn
      omega
    have := txHeld_set s.txq (s.txq.free - segmentCount len) h.cls (s.txq.queues.get h.cls ++ [newDescriptor h tag len])
      s.txq.seqs (.admitted h.cls 0)
    simp only [queueBuffers_append, queueBuffers_cons, queueBuffers_nil, newDescriptor, List.length_replicate] at this
    simp only [txTotal, newDescriptor]
    omega

@[simp] theorem payloadTaken_txTotal (w : Word) (s : State) : txTotal (payloadTaken w s) = txTotal s := by
  unfold payloadTaken
  split
  · rfl
  · rfl
  · rename_i c n _
    have := txHeld_set s.txq s.txq.free c
      (mapLast (fun d => { d with bufs := writeWord d.bufs n (wordBytes w) }) (s.txq.queues.get c)) s.txq.seqs
      (.admitted c (n + 4))
    rw [queueBuffers_mapLast _ (by simp)] at this
    simp only [txTotal]
    omega

@[simp] theorem finishMessage_txTotal (c : Class) (s : State) : txTotal (finishMessage c s) = txTotal s := by
  have := txHeld_set s.txq s.txq.free c
    (mapLast (queuedDescriptor (s.txq.seqs.get c)) (s.txq.queues.get c))
    (s.txq.seqs.set c (s.txq.seqs.get c + 1)) .none
  rw [queueBuffers_mapLast _ (by simp [queuedDescriptor])] at this
  simp only [txTotal, finishMessage]
  omega

@[simp] theorem dropMessage_txTotal (k : RefusalCause) (c : Class) (s : State) :
    txTotal (dropMessage k c s) = txTotal s := by
  unfold dropMessage
  split
  · rfl
  · rename_i d hd
    rw [txTotal_of_txq (raiseRefused_frame _ _ _ _).2.2.2.2.2.2.2.1]
    have h1 := txHeld_set s.txq (s.txq.free + d.bufs.length) c (s.txq.queues.get c).dropLast s.txq.seqs .none
    have h2 := queueBuffers_dropLast _ _ hd
    simp only [txTotal]
    omega

@[simp] theorem messageEnd_txTotal (e : MessageEnd) (s : State) : txTotal (messageEnd e s) = txTotal s := by
  unfold messageEnd
  (repeat' split) <;> first
    | rfl
    | (rw [txTotal_of_txq (raiseRefused_frame _ _ _ _).2.2.2.2.2.2.2.1]; rfl)
    | simp

/-- A segment handed over: its buffer is free again (R108, R109). -/
theorem segmentSent_txTotal (c : Class) (d : Descriptor) (rest : List Descriptor) (s : State)
    (h : s.txq.queues.get c = d :: rest) : txTotal (segmentSent c d rest s) = txTotal s := by
  unfold segmentSent
  split
  · have := txHeld_set s.txq (s.txq.free + d.bufs.length) c rest s.txq.seqs s.txq.ingress
    rw [h] at this
    simp only [queueBuffers_cons] at this
    split
    · rw [txTotal_of_txq (takeNotice_frame _ _).2.2.2.2.2.2.2.1]
      simp only [txTotal]
      omega
    · simp only [txTotal]
      omega
  · have := txHeld_set s.txq (s.txq.free + (d.bufs.length - d.bufs.tail.length)) c
      ({ d with next := d.next + 1, bufs := d.bufs.tail, st := .sending } :: rest) s.txq.seqs s.txq.ingress
    rw [h] at this
    simp only [queueBuffers_cons] at this
    have hl : d.bufs.tail.length ≤ d.bufs.length := by simp
    simp only [txTotal]
    omega

@[simp] theorem frameSupplied_txTotal (c : Class) (s : State) : txTotal (frameSupplied c s) = txTotal s := by
  unfold frameSupplied
  split
  · rfl
  · rename_i d rest hq
    split
    · rfl
    · have := txHeld_set s.txq (s.txq.free + d.bufs.length) c rest s.txq.seqs s.txq.ingress
      rw [hq] at this
      simp only [queueBuffers_cons] at this
      simp only [txTotal]
      omega
    · exact segmentSent_txTotal c d rest s hq
    · exact segmentSent_txTotal c d rest s hq

/-- What FLUSH leaves of a queue and what it frees make up what the queue held (R114). -/
theorem queueBuffers_flushed (q : List Descriptor) :
    queueBuffers (q.filterMap Descriptor.flushed) + (q.map Descriptor.flushFrees).sum = queueBuffers q := by
  induction q with
  | nil => rfl
  | cons d q ih =>
    cases hd : d.st <;>
      simp [Descriptor.flushed, Descriptor.flushFrees, hd] <;> omega

@[simp] theorem flushQueue_txTotal (c : Class) (s : State) : txTotal (flushQueue c s) = txTotal s := by
  unfold flushQueue
  rw [txTotal_of_txq (takeNotices_frame _ _).2.2.2.2.2.2.2.1]
  have h1 := txHeld_set s.txq (s.txq.free + ((s.txq.queues.get c).map Descriptor.flushFrees).sum) c
    ((s.txq.queues.get c).filterMap Descriptor.flushed) s.txq.seqs s.txq.ingress
  have h2 := queueBuffers_flushed (s.txq.queues.get c)
  simp only [txTotal]
  omega

/-- TXQ's session end in one class frees every buffer of the queue (R116). -/
@[simp] theorem endQueue_txTotal (c : Class) (s : State) : txTotal (endQueue c s) = txTotal s := by
  unfold endQueue
  rw [txTotal_of_txq (takeNotices_frame _ _).2.2.2.2.2.2.2.1]
  have := txHeld_set s.txq s.txq.free c [] s.txq.seqs .none
  simp only [txTotal, txHeld, queueBuffers_nil] at this ⊢
  simp only [queueBuffers] at this ⊢
  omega

@[simp] theorem txqSessionEnd_txTotal (s : State) : txTotal (txqSessionEnd s) = txTotal s := by
  simp [txqSessionEnd]

/-! ### Capacities -/

/-- An operation that leaves queues, tables and settings as they are leaves their capacities. -/
theorem capacityLaw_of_eq {s t : State} (h1 : t.txq.queues = s.txq.queues) (h2 : t.ras.contexts = s.ras.contexts)
    (h3 : t.dlv.queues = s.dlv.queues) (h4 : t.dlv.notices = s.dlv.notices) (h5 : t.dlv.lost = s.dlv.lost)
    (h6 : t.mgt.settings = s.mgt.settings) (h : CapacityLaw s) : CapacityLaw t := by
  unfold CapacityLaw at *
  rw [h1, h2, h3, h4, h5, h6]
  exact h

/-- A delivery queue replaced by one of at most 32 records. -/
theorem length_set_le {α : Type} {n : Nat} (f : Four (List α)) (q : Class) (l : List α)
    (h : ∀ c, (f.get c).length ≤ n) (hl : l.length ≤ n) (c : Class) : ((f.set q l).get c).length ≤ n := by
  by_cases hc : c = q
  · subst hc; simpa using hl
  · rw [Four.get_set_of_ne _ _ hc]; exact h c

theorem beginDelivery_capacity (q : Class) (s : State) (h : CapacityLaw s) : CapacityLaw (beginDelivery q s) := by
  unfold beginDelivery
  split
  · exact h
  · rename_i r rest hq
    obtain ⟨h1, h2, h3, h4⟩ := h
    refine ⟨h1, h2, length_set_le _ _ _ h3 ?_, h4⟩
    have := h3 q
    rw [hq] at this
    simp only [List.length_cons] at this
    omega

theorem arbitrate_capacity (s : State) (h : CapacityLaw s) : CapacityLaw (arbitrate s) := by
  unfold arbitrate
  split
  · split
    · rename_i n rest hn
      obtain ⟨h1, h2, h3, h4, h5⟩ := h
      refine ⟨h1, h2, h3, ?_, h5⟩
      rw [hn] at h4
      simp only [List.length_cons] at h4
      show rest.length ≤ 16
      omega
    · unfold arbitrateDelivery
      (repeat' split) <;> first
        | exact h
        | exact beginDelivery_capacity _ _ h
  · exact h
  · exact h

theorem takeNotice_capacity (n : Notice) (s : State) (h : CapacityLaw s) : CapacityLaw (takeNotice n s) := by
  unfold takeNotice
  obtain ⟨h1, h2, h3, h4, h5, h6⟩ := h
  split
  · rename_i hl
    refine arbitrate_capacity _ ⟨h1, h2, h3, ?_, by simp, h6⟩
    simp only [List.length_append, List.length_cons, List.length_nil]
    omega
  · refine ⟨h1, h2, h3, h4, ?_, h6⟩
    simp only [raiseEvent]
    split <;> omega

theorem takeNotices_capacity (ns : List Notice) (s : State) (h : CapacityLaw s) : CapacityLaw (takeNotices ns s) := by
  unfold takeNotices
  induction ns generalizing s with
  | nil => exact h
  | cons n ns ih => exact ih _ (takeNotice_capacity n s h)

theorem raiseRefused_capacity (k : RefusalCause) (c : Class) (tag : Byte) (s : State) (h : CapacityLaw s) :
    CapacityLaw (raiseRefused k c tag s) := takeNotice_capacity _ _ h

theorem handOff_capacity (r : DeliveredRecord) (s : State) (h : CapacityLaw s) : CapacityLaw (handOff r s) := by
  unfold handOff
  split
  · rename_i q _
    unfold offerRecord
    split
    · rename_i hl
      obtain ⟨h1, h2, h3, h4⟩ := h
      refine arbitrate_capacity _ ⟨h1, h2, length_set_le _ _ _ h3 ?_, h4⟩
      simp only [List.length_append, List.length_cons, List.length_nil]
      omega
    · exact h
  · exact h

theorem abortContext_capacity (w : AbortReason) (c : Context) (s : State) (h : CapacityLaw s) :
    CapacityLaw (abortContext w c s) := by
  obtain ⟨h1, h2, h3⟩ := h
  have he : (s.ras.contexts.erase c).length ≤ 32 := le_trans List.length_erase_le h2
  unfold abortContext
  dsimp only
  split
  · exact handOff_capacity _ _ ⟨h1, he, h3⟩
  · exact ⟨h1, he, h3⟩

theorem abortContexts_capacity (w : AbortReason) (cs : List Context) (s : State) (h : CapacityLaw s) :
    CapacityLaw (abortContexts w cs s) := by
  unfold abortContexts
  dsimp only
  generalize (pickOrder cs.length s.freeIx cs).1 = l
  generalize hu : ({ s with freeIx := (pickOrder cs.length s.freeIx cs).2 } : State) = u
  have hc : CapacityLaw u := by rw [← hu]; exact h
  clear hu h
  induction l generalizing u with
  | nil => exact hc
  | cons c l ih => exact ih _ (abortContext_capacity w c u hc)

theorem openContext_capacity (t : Time) (f : SegmentFrame) (s : State) (h : CapacityLaw s) :
    CapacityLaw (openContext t f s) := by
  unfold openContext
  dsimp only
  split
  · exact h
  · rename_i hl
    split
    · exact h
    · split
      · exact handOff_capacity _ _ h
      · obtain ⟨h1, h2, h3⟩ := h
        refine ⟨h1, ?_, h3⟩
        simp only [List.length_append, List.length_cons, List.length_nil]
        omega

theorem takeSegment_capacity (t : Time) (f : SegmentFrame) (s : State) (h : CapacityLaw s) :
    CapacityLaw (takeSegment t f s) := by
  unfold takeSegment
  split
  · exact h
  · split
    · unfold firstSegment
      dsimp only
      split
      · split
        · exact openContext_capacity _ _ _ (abortContext_capacity _ _ _ h)
        · exact abortContext_capacity _ _ _ h
      · split
        · exact openContext_capacity _ _ _ h
        · exact h
    · unfold laterSegment
      split
      · exact h
      · rename_i c _
        split
        · dsimp only
          split
          · obtain ⟨h1, h2, h3⟩ := h
            exact handOff_capacity _ _ ⟨h1, le_trans List.length_erase_le h2, h3⟩
          · obtain ⟨h1, h2, h3⟩ := h
            refine ⟨h1, ?_, h3⟩
            simpa using h2
        · exact abortContext_capacity _ _ _ h

theorem takeAbort_capacity (f : AbortFrame) (s : State) (h : CapacityLaw s) : CapacityLaw (takeAbort f s) := by
  unfold takeAbort
  (repeat' split) <;> first
    | exact h
    | exact abortContext_capacity _ _ _ h

theorem staleExpiry_capacity (t : Time) (st : Station) (c : Class) (s : State) (h : CapacityLaw s) :
    CapacityLaw (staleExpiry t st c s) := by
  unfold staleExpiry
  (repeat' split) <;> first
    | exact h
    | exact abortContext_capacity _ _ _ h

theorem takeEgressWord_capacity (s : State) (h : CapacityLaw s) : CapacityLaw (takeEgressWord s) := by
  unfold takeEgressWord
  (repeat' split) <;> first
    | exact h
    | exact arbitrate_capacity _ h

/-- A class queue replaced by one of at most 16 descriptors. -/
theorem txq_capacity {s : State} (free : Nat) (c : Class) (q : List Descriptor) (seqs : Four Byte) (i : IngressRecord)
    (h : CapacityLaw s) (hq : q.length ≤ 16) :
    CapacityLaw { s with txq := ⟨free, s.txq.queues.set c q, seqs, i⟩ } :=
  ⟨length_set_le _ _ _ h.1 hq, h.2⟩

theorem headerTaken_capacity (h : FirstHead) (tag : Byte) (len : Nat) (s : State) (hs : CapacityLaw s) :
    CapacityLaw (headerTaken h tag len s) := by
  unfold headerTaken
  split
  · exact hs
  · rename_i hn
    refine txq_capacity _ _ _ _ _ hs ?_
    unfold admissionCheck at hn
    split_ifs at hn
    simp only [List.length_append, List.length_cons, List.length_nil]
    omega

theorem payloadTaken_capacity (w : Word) (s : State) (h : CapacityLaw s) : CapacityLaw (payloadTaken w s) := by
  unfold payloadTaken
  split
  · exact h
  · exact h
  · exact txq_capacity _ _ _ _ _ h (by simpa using h.1 _)

theorem messageEnd_capacity (e : MessageEnd) (s : State) (h : CapacityLaw s) : CapacityLaw (messageEnd e s) := by
  have drop : ∀ k c, CapacityLaw (dropMessage k c s) := by
    intro k c
    unfold dropMessage
    split
    · exact h
    · refine raiseRefused_capacity _ _ _ _ (txq_capacity _ _ _ _ _ h ?_)
      have := h.1 c
      simp only [List.length_dropLast]
      omega
  unfold messageEnd
  split
  · exact h
  · exact raiseRefused_capacity _ _ _ _ h
  · split
    · exact txq_capacity _ _ _ _ _ h (by simpa using h.1 _)
    · exact drop _ _
    · exact drop _ _

theorem frameSupplied_capacity (c : Class) (s : State) (h : CapacityLaw s) : CapacityLaw (frameSupplied c s) := by
  have hl := h.1 c
  unfold frameSupplied
  split
  · exact h
  · rename_i d rest hq
    rw [hq] at hl
    simp only [List.length_cons] at hl
    have sent : CapacityLaw (segmentSent c d rest s) := by
      unfold segmentSent
      split
      · dsimp only
        split
        · exact takeNotice_capacity _ _ (txq_capacity _ _ _ _ _ h (by omega))
        · exact txq_capacity _ _ _ _ _ h (by omega)
      · exact txq_capacity _ _ _ _ _ h (by simpa using hl)
    split
    · exact h
    · exact txq_capacity _ _ _ _ _ h (by omega)
    · exact sent
    · exact sent

theorem flushQueue_capacity (c : Class) (s : State) (h : CapacityLaw s) : CapacityLaw (flushQueue c s) :=
  takeNotices_capacity _ _ (txq_capacity _ _ _ _ _ h (le_trans (List.length_filterMap_le _ _) (h.1 c)))

theorem endQueue_capacity (c : Class) (s : State) (h : CapacityLaw s) : CapacityLaw (endQueue c s) :=
  takeNotices_capacity _ _ (txq_capacity _ _ _ _ _ h (by simp))

/-! ### Both pools and the capacities, operation by operation -/

/-- The pools are as full as they were, and the capacities are kept. -/
def PoolsKept (s t : State) : Prop :=
  rxTotal t = rxTotal s ∧ txTotal t = txTotal s ∧ (CapacityLaw s → CapacityLaw t)

namespace PoolsKept

theorem refl (s : State) : PoolsKept s s := ⟨rfl, rfl, id⟩

theorem trans {s t u : State} (h : PoolsKept s t) (g : PoolsKept t u) : PoolsKept s u :=
  ⟨g.1.trans h.1, g.2.1.trans h.2.1, fun k => g.2.2 (h.2.2 k)⟩

/-- An operation on other state keeps the pools. -/
theorem of_eq {s t : State} (h1 : t.txq = s.txq) (h2 : t.ras = s.ras) (h3 : t.dlv = s.dlv)
    (h4 : t.trb.framer = s.trb.framer) (h5 : t.mgt.settings = s.mgt.settings) : PoolsKept s t := by
  refine ⟨?_, ?_, fun h => ?_⟩
  · simp only [rxTotal, h2, h3, h4]
  · simp only [txTotal, h1]
  · exact capacityLaw_of_eq (by rw [h1]) (by rw [h2]) (by rw [h3]) (by rw [h3]) (by rw [h3]) h5 h

/-- What the pools law and the capacities say of the state before, they say of the state after. -/
theorem laws {s t : State} (h : PoolsKept s t) (h1 : TxPoolLaw s) (h2 : RxPoolLaw s) (h3 : CapacityLaw s) :
    TxPoolLaw t ∧ RxPoolLaw t ∧ CapacityLaw t :=
  ⟨h.2.1.trans h1, h.1.trans h2, h.2.2 h3⟩

end PoolsKept

theorem takeNotice_pools (n : Notice) (s : State) : PoolsKept s (takeNotice n s) :=
  ⟨by simp, txTotal_of_txq (by simp), takeNotice_capacity n s⟩

theorem raiseRefused_pools (k : RefusalCause) (c : Class) (tag : Byte) (s : State) :
    PoolsKept s (raiseRefused k c tag s) :=
  ⟨by simp, txTotal_of_txq (by simp), raiseRefused_capacity k c tag s⟩

theorem takeEgressWord_pools (s : State) : PoolsKept s (takeEgressWord s) :=
  ⟨by simp, txTotal_of_txq (by simp), takeEgressWord_capacity s⟩

theorem removeSources_pools (rs : List Station) (s : State) : PoolsKept s (removeSources rs s) :=
  ⟨by simp, txTotal_of_txq (by simp), abortContexts_capacity _ _ s⟩

theorem rasSessionEnd_pools (s : State) : PoolsKept s (rasSessionEnd s) :=
  ⟨by simp, txTotal_of_txq (by simp), abortContexts_capacity _ _ s⟩

theorem takeSegment_pools (t : Time) (f : SegmentFrame) (s : State) : PoolsKept s (takeSegment t f s) :=
  ⟨by simp, txTotal_of_txq (by simp), takeSegment_capacity t f s⟩

theorem takeAbort_pools (f : AbortFrame) (s : State) : PoolsKept s (takeAbort f s) :=
  ⟨by simp, txTotal_of_txq (by simp), takeAbort_capacity f s⟩

theorem staleExpiry_pools (t : Time) (st : Station) (c : Class) (s : State) : PoolsKept s (staleExpiry t st c s) :=
  ⟨by simp, txTotal_of_txq (by simp), staleExpiry_capacity t st c s⟩

theorem headerTaken_pools (h : FirstHead) (tag : Byte) (len : Nat) (s : State) :
    PoolsKept s (headerTaken h tag len s) :=
  ⟨by simp [rxTotal], by simp, headerTaken_capacity h tag len s⟩

theorem payloadTaken_pools (w : Word) (s : State) : PoolsKept s (payloadTaken w s) :=
  ⟨by simp [rxTotal], by simp, payloadTaken_capacity w s⟩

theorem messageEnd_pools (e : MessageEnd) (s : State) : PoolsKept s (messageEnd e s) := by
  refine ⟨?_, by simp, messageEnd_capacity e s⟩
  unfold messageEnd dropMessage
  (repeat' split) <;> first
    | rfl
    | (rw [raiseRefused_rxTotal]; rfl)

theorem frameSupplied_pools (c : Class) (s : State) : PoolsKept s (frameSupplied c s) := by
  refine ⟨?_, by simp, frameSupplied_capacity c s⟩
  unfold frameSupplied segmentSent
  (repeat' split) <;> first
    | rfl
    | (rw [takeNotice_rxTotal]; rfl)

theorem flushQueue_pools (c : Class) (s : State) : PoolsKept s (flushQueue c s) :=
  ⟨by rw [flushQueue, takeNotices_rxTotal]; rfl, by simp, flushQueue_capacity c s⟩

theorem endQueue_pools (c : Class) (s : State) : PoolsKept s (endQueue c s) :=
  ⟨by rw [endQueue, takeNotices_rxTotal]; rfl, by simp, endQueue_capacity c s⟩

theorem txqSessionEnd_pools (s : State) : PoolsKept s (txqSessionEnd s) :=
  (((endQueue_pools 0 s).trans (endQueue_pools 1 _)).trans (endQueue_pools 2 _)).trans (endQueue_pools 3 _)

theorem enterState_pools (st : StationState) (s : State) : PoolsKept s (enterState st s) :=
  .of_eq (by simp) (by simp) (by simp) (by simp) (by simp)

theorem endQueues_pools (s : State) : PoolsKept s (endQueues s) := by
  have k : PoolsKept s { s with freeIx := s.freeIx + 1 } := .of_eq rfl rfl rfl rfl rfl
  unfold endQueues
  split
  · exact txqSessionEnd_pools s
  · split
    · exact (k.trans (txqSessionEnd_pools _)).trans (rasSessionEnd_pools _)
    · exact (k.trans (rasSessionEnd_pools _)).trans (txqSessionEnd_pools _)

theorem endSession_pools (s : State) : PoolsKept s (endSession s) := by
  refine (endQueues_pools s).trans ?_
  unfold endSession
  exact .of_eq (by simp) (by simp) (by simp) (by simp) (by simp)

theorem enterStopped_pools (s : State) : PoolsKept s (enterStopped s) :=
  (enterState_pools _ s).trans (endSession_pools _)

theorem enterHalted_pools (h : HaltCause) (s : State) : PoolsKept s (enterHalted h s) := by
  unfold enterHalted
  split
  · exact .refl s
  · refine PoolsKept.trans ?_ (endSession_pools _)
    exact .of_eq (by simp) (by simp) (by simp) (by simp) (by simp)

theorem enterListen_pools (t : Time) (s : State) : PoolsKept s (enterListen t s) := by
  unfold enterListen
  split
  · exact enterStopped_pools s
  · exact .of_eq (by simp) (by simp) (by simp) (by simp) (by simp)

theorem stepLoss_pools (t : Time) (s : State) : PoolsKept s (stepLoss t s) := by
  refine PoolsKept.trans ?_ (enterListen_pools t _)
  exact .of_eq (by simp) (by simp) (by simp) (by simp) (by simp)

theorem takeTable_pools (f : TableFrame) (s : State) : PoolsKept s (takeTable f s) := by
  unfold takeTable
  split
  · split
    · unfold loadTable
      dsimp only
      generalize hu : ({ s with ssu := { s.ssu with sched := Sched.ofBytes f.body, digest := f.digest } } : State) = u
      have k : PoolsKept s u := by subst hu; exact .of_eq rfl rfl rfl rfl rfl
      exact (k.trans (removeSources_pools _ u)).trans (.of_eq rfl rfl rfl rfl rfl)
    · exact .of_eq rfl rfl rfl rfl rfl
  · exact .refl s

theorem commit_pools (o : Announcement) (s : State) : PoolsKept s (commit o s) := by
  unfold commit
  dsimp only
  refine PoolsKept.trans ?_ (removeSources_pools _ _)
  split <;> exact .of_eq rfl rfl rfl rfl rfl

/-! ### The line, the ingress parser and the end of the announcement phase -/

/-- `trans` with the later operation first. -/
theorem PoolsKept.after {s t u : State} (g : PoolsKept t u) (h : PoolsKept s t) : PoolsKept s u := h.trans g

theorem verdict_pools (o : Announcement) (s : State) : PoolsKept s (verdict o s) := by
  unfold verdict
  dsimp only
  split
  · generalize hu : ({ s with cyc := { s.cyc with outcome := some { o with committed := true } } } : State) = u
    have k : PoolsKept s u := by subst hu; exact .of_eq rfl rfl rfl rfl rfl
    refine (k.trans (commit_pools o u)).trans ?_
    split
    · exact .of_eq (by simp) (by simp) (by simp) (by simp) (by simp)
    · exact .refl _
  · split <;> exact .of_eq (by simp) (by simp) (by simp) (by simp) (by simp)

theorem endAnnouncement_pools (t : Time) (s : State) : PoolsKept s (endAnnouncement t s) := by
  have k : ∀ u, PoolsKept u (fixDataPhase t u) := fun u => .of_eq (by simp) (by simp) (by simp) (by simp) (by simp)
  unfold endAnnouncement
  refine PoolsKept.trans ?_ (k _)
  split
  · split
    · exact .of_eq (by simp) (by simp) (by simp) (by simp) (by simp)
    · exact .refl s
  · split
    · exact verdict_pools _ s
    · exact .refl s

theorem joinCycleEnds_pools (t : Time) (s : State) : PoolsKept s (boundaryStep.joinCycleEnds t s) := by
  unfold boundaryStep.joinCycleEnds
  dsimp only
  split
  · split
    · exact (enterHalted_pools _ _).after (.of_eq rfl rfl rfl rfl rfl)
    · exact (enterListen_pools _ _).after (.of_eq rfl rfl rfl rfl rfl)
  · exact .of_eq rfl rfl rfl rfl rfl

theorem boundaryStep_pools (t : Time) (s : State) : PoolsKept s (boundaryStep t s) := by
  have m : PoolsKept s (boundaryStep.settleMember s) := .of_eq (by simp) (by simp) (by simp) (by simp) (by simp)
  have n : PoolsKept s (boundaryStep.settleNotMember s) := .of_eq (by simp) (by simp) (by simp) (by simp) (by simp)
  unfold boundaryStep
  split
  · exact m
  · exact m
  · exact m
  · exact n
  · exact n
  · exact (joinCycleEnds_pools _ _).after (.of_eq rfl rfl rfl rfl rfl)
  · exact joinCycleEnds_pools _ _
  · exact .of_eq (by simp) (by simp) (by simp) (by simp) (by simp)
  · dsimp only
    split
    · exact (stepLoss_pools _ _).after (.of_eq rfl rfl rfl rfl rfl)
    · exact .of_eq rfl rfl rfl rfl rfl
  · exact enterStopped_pools _
  all_goals exact .refl s

theorem takeBoundary_pools (t : Time) (s : State) : PoolsKept s (takeBoundary t s) :=
  (boundaryStep_pools t _).after (.of_eq rfl rfl rfl rfl rfl)

theorem beginGap_pools (t : Time) (s : State) : PoolsKept s (beginGap t s) :=
  (takeBoundary_pools _ _).after (.of_eq rfl rfl rfl rfl rfl)

theorem compareProfile_pools (b : Byte) (s : State) : PoolsKept s (compareProfile b s) := by
  unfold compareProfile
  (repeat' split) <;> first
    | exact enterHalted_pools _ _
    | exact .of_eq rfl rfl rfl rfl rfl

theorem checkDuplicate_pools (st : Station) (own : Bool) (s : State) : PoolsKept s (checkDuplicate st own s) := by
  unfold checkDuplicate
  split
  · exact enterHalted_pools _ _
  · exact .refl s

theorem countEcho_pools (ok : Bool) (s : State) : PoolsKept s (countEcho ok s) := by
  unfold countEcho
  dsimp only
  (repeat' split) <;> first
    | exact .of_eq rfl rfl rfl rfl rfl
    | exact (enterHalted_pools _ _).after (.of_eq rfl rfl rfl rfl rfl)

theorem leaveAfterBid_pools (own : Option Frame) (s : State) : PoolsKept s (leaveAfterBid own s) := by
  unfold leaveAfterBid
  split
  · exact enterState_pools _ _
  · exact .refl s

theorem goBlind_pools (s : State) : PoolsKept s (goBlind s) :=
  .of_eq (by simp) (by simp) (by simp) (by simp) (by simp)

theorem enterBid_pools (k : Nat) (own : Bool) (f : BidFrame) (s : State) : PoolsKept s (enterBid k own f s) :=
  .of_eq (by simp) (by simp) (by simp) (by simp) (by simp)

theorem enterBidReport_pools (k : Nat) (own : Option Frame) (ok : Bool) (c : SlotClass) (s : State) :
    PoolsKept s (enterBidReport k own ok c s) := by
  have echo : ∀ (b : Bool) u, PoolsKept u (if own.isSome then countEcho b u else u) := by
    intro b u
    split
    · exact countEcho_pools _ _
    · exact .refl u
  unfold enterBidReport
  split
  · exact .of_eq rfl rfl rfl rfl rfl
  · dsimp only
    refine PoolsKept.trans ?_ (leaveAfterBid_pools _ _)
    refine PoolsKept.trans ?_ (checkDuplicate_pools _ _ _)
    refine PoolsKept.trans ?_ (compareProfile_pools _ _)
    refine PoolsKept.trans ?_ (echo _ _)
    refine PoolsKept.trans ?_ (goBlind_pools _)
    refine PoolsKept.trans ?_ (enterBid_pools _ _ _ _)
    exact .of_eq rfl rfl rfl rfl rfl
  · dsimp only
    refine PoolsKept.trans ?_ (leaveAfterBid_pools _ _)
    refine PoolsKept.trans ?_ (echo _ _)
    split
    · exact .of_eq rfl rfl rfl rfl rfl
    · exact (goBlind_pools _).after (.of_eq rfl rfl rfl rfl rfl)

theorem dropSlotEcho_pools (s : State) : PoolsKept s (dropSlotEcho s) :=
  .of_eq (by simp) (by simp) (by simp) (by simp) (by simp)

theorem bidSlotReport_pools (k : Nat) (a : Time) (line : SpanLine) (s : State) :
    PoolsKept s (bidSlotReport k a line s) := by
  have fin : ∀ d u, PoolsKept u (endBidSlot k d u) := by
    intro d u
    unfold endBidSlot
    (repeat' split) <;> first
      | exact .refl u
      | exact .of_eq rfl rfl rfl rfl rfl
      | exact endAnnouncement_pools _ _
  unfold bidSlotReport
  dsimp only
  refine PoolsKept.trans ?_ (fin _ _)
  refine (dropSlotEcho_pools s).trans ?_
  split
  · exact enterBidReport_pools _ _ _ _ _
  · exact .refl _

theorem handDataFrame_pools (t : Time) (f : Frame) (s : State) : PoolsKept s (handDataFrame t f s) := by
  cases f <;> first
    | exact .refl s
    | exact takeSegment_pools _ _ _
    | exact takeAbort_pools _ _
    | exact takeTable_pools _ _

theorem dataSlotReport_pools (o : Bool) (i : Nat) (d : Time) (line : SpanLine) (s : State) :
    PoolsKept s (dataSlotReport o i d line s) := by
  have k : ∀ n, PoolsKept s (passDataSlot o n (dropSlotEcho s)) := fun n =>
    (PoolsKept.of_eq rfl rfl rfl rfl rfl : PoolsKept (dropSlotEcho s) _).after (dropSlotEcho_pools s)
  have fin : ∀ n f r, PoolsKept s (fixEndSlotted i n f r (passDataSlot o n (dropSlotEcho s))) := fun n f r =>
    (PoolsKept.of_eq rfl rfl rfl rfl rfl : PoolsKept (passDataSlot o n (dropSlotEcho s)) _).after (k n)
  have hand : ∀ {c : Prop} [Decidable c] (t : Time) (f : Frame) (u : State), PoolsKept s u →
      PoolsKept s (if c then u else handDataFrame t f u) := by
    intro c _ t f u h
    split
    · exact h
    · exact h.trans (handDataFrame_pools t f u)
  unfold dataSlotReport
  dsimp only
  generalize (if overTableBlock i _ _ s.cyc = true then i + 4 else i + 1) = next
  split
  · exact k _
  · exact (k next).trans (.of_eq rfl rfl rfl rfl rfl)
  · exact hand _ _ _ (fin _ _ _)

theorem slotReport_pools (line : SpanLine) (s : State) : PoolsKept s (slotReport line s) := by
  unfold slotReport gapReport
  dsimp only
  (repeat' split) <;> first
    | exact .of_eq rfl rfl rfl rfl rfl
    | exact bidSlotReport_pools _ _ _ _
    | exact dataSlotReport_pools _ _ _ _ _

theorem beginCycleByBid_pools (own : Bool) (f : BidFrame) (r : Reception) (s : State) :
    PoolsKept s (beginCycleByBid own f r s) := by
  have echo : ∀ u, PoolsKept u (if own then countEcho true u else u) := by
    intro u
    split
    · exact countEcho_pools _ _
    · exact .refl u
  unfold beginCycleByBid
  dsimp only
  generalize hb : (if isDuplicate _ _ _ = true then clearCycle _ else takeBoundary _ _) = b
  have kb : PoolsKept s b := by
    rw [← hb]
    split
    · exact .of_eq rfl rfl rfl rfl rfl
    · exact (takeBoundary_pools _ _).after (.of_eq rfl rfl rfl rfl rfl)
  split
  · exact kb
  · refine kb.trans ?_
    refine PoolsKept.trans ?_ (checkDuplicate_pools _ _ _)
    refine PoolsKept.trans ?_ (compareProfile_pools _ _)
    refine PoolsKept.trans ?_ (echo _)
    refine PoolsKept.trans ?_ (goBlind_pools _)
    refine PoolsKept.trans ?_ (enterBid_pools _ _ _ _)
    exact .of_eq (by simp) (by simp) (by simp) (by simp) (by simp)

theorem takeUnslotted_pools (own : Bool) (f : Frame) (r : Reception) (s : State) :
    PoolsKept s (takeUnslotted own f r s) := by
  have k : ∀ g, PoolsKept s (fixEndUnslotted g r s) :=
    fun g => .of_eq (by simp) (by simp) (by simp) (by simp) (by simp)
  unfold takeUnslotted
  split
  · exact beginCycleByBid_pools _ _ _ _
  · split
    · exact .refl s
    · refine PoolsKept.trans ?_ (checkDuplicate_pools _ _ _)
      exact (compareProfile_pools _ _).after (.of_eq rfl rfl rfl rfl rfl)
  · exact (k _).trans (takeSegment_pools _ _ _)
  · exact (k _).trans (takeAbort_pools _ _)
  · exact k _
  · exact (k _).trans (takeTable_pools _ _)

theorem startEchoFailed_pools (t : Time) (s : State) : PoolsKept s (startEchoFailed t s) := by
  unfold startEchoFailed
  exact (enterListen_pools _ _).after (.of_eq (by simp) (by simp) (by simp) (by simp) (by simp))

theorem judgeStartEcho_pools (e : EchoWatch) (f : Option Frame) (r : Reception) (s : State) :
    PoolsKept s (judgeStartEcho e f r s) := by
  unfold judgeStartEcho
  dsimp only
  (repeat' split) <;> first
    | exact .of_eq rfl rfl rfl rfl rfl
    | exact (startEchoFailed_pools _ _).after (.of_eq rfl rfl rfl rfl rfl)

theorem takeReception_pools (own : Option Frame) (f : Option Frame) (r : Reception) (s : State) :
    PoolsKept s (takeReception own f r s) := by
  unfold takeReception
  split
  · exact .of_eq rfl rfl rfl rfl rfl
  · exact takeUnslotted_pools _ _ _ _

theorem unslottedReception_pools (r : Reception) (s : State) : PoolsKept s (unslottedReception r s) := by
  unfold unslottedReception
  dsimp only
  (repeat' split) <;> first
    | exact .refl s
    | exact .of_eq (by simp) (by simp) (by simp) (by simp) (by simp)
    | exact judgeStartEcho_pools _ _ _ _
    | exact takeReception_pools _ _ _ _

theorem setParser_pools (p : Parser) (s : State) : PoolsKept s (setParser p s) := .of_eq rfl rfl rfl rfl rfl

theorem takeHead_pools (w : Word) (s : State) : PoolsKept s (takeHead w s) := by
  unfold takeHead
  split
  · exact setParser_pools _ _
  · exact (headerTaken_pools _ _ _ _).trans (setParser_pools _ _)
  · exact (messageEnd_pools _ _).trans (setParser_pools _ _)
  · exact (messageEnd_pools _ _).trans (setParser_pools _ _)
  · exact (raiseRefused_pools _ _ _ _).trans (setParser_pools _ _)
  · exact setParser_pools _ _

theorem takeBody_pools (w : Word) (s : State) : PoolsKept s (takeBody w s) := by
  unfold takeBody
  split
  · exact setParser_pools _ _
  · exact setParser_pools _ _
  · split
    · exact (payloadTaken_pools _ _).trans (setParser_pools _ _)
    · exact setParser_pools _ _
  all_goals exact .refl s

theorem takeTail_pools (w : Word) (s : State) : PoolsKept s (takeTail w s) := by
  unfold takeTail
  split
  · exact raiseRefused_pools _ _ _ _
  · exact (raiseRefused_pools _ _ _ _).trans (setParser_pools _ _)
  · split
    · exact ((payloadTaken_pools _ _).trans (messageEnd_pools _ _)).trans (setParser_pools _ _)
    · exact (messageEnd_pools _ _).trans (setParser_pools _ _)
  · exact (messageEnd_pools _ _).trans (setParser_pools _ _)
  · exact (raiseRefused_pools _ _ _ _).trans (setParser_pools _ _)
  · exact setParser_pools _ _

theorem takeBreak_pools (s : State) : PoolsKept s (takeBreak s) := by
  unfold takeBreak
  split
  · exact .refl s
  · exact (raiseRefused_pools _ _ _ _).trans (setParser_pools _ _)
  · exact (messageEnd_pools _ _).trans (setParser_pools _ _)
  · exact (messageEnd_pools _ _).trans (setParser_pools _ _)
  · exact (raiseRefused_pools _ _ _ _).trans (setParser_pools _ _)
  · exact setParser_pools _ _

theorem takeIngressWord_pools (k : WordKind) (w : Word) (s : State) : PoolsKept s (takeIngressWord k w s) := by
  cases k
  · exact takeBody_pools w s
  · exact takeHead_pools w s
  · exact takeTail_pools w s
  · exact takeBreak_pools s

/-! ### The commands of the management port, and the end of a transmission -/

theorem joinCommand_pools (t : Time) (s : State) : PoolsKept s (joinCommand t s) := by
  unfold joinCommand
  dsimp only
  split
  · split
    · exact (enterListen_pools _ _).after (.of_eq rfl rfl rfl rfl rfl)
    · exact .of_eq rfl rfl rfl rfl rfl
  · exact .of_eq rfl rfl rfl rfl rfl

theorem leaveCommand_pools (s : State) : PoolsKept s (leaveCommand s) := by
  unfold leaveCommand
  split <;> first
    | with_reducible exact enterStopped_pools _
    | exact .of_eq (by simp) (by simp) (by simp) (by simp) (by simp)

theorem flushCommand_pools (c : Class) (s : State) : PoolsKept s (flushCommand c s) := by
  unfold flushCommand
  split
  · exact .of_eq rfl rfl rfl rfl rfl
  · exact flushQueue_pools c s

theorem settleStartEcho_pools (t : Time) (s : State) : PoolsKept s (settleStartEcho t s) := by
  unfold settleStartEcho
  dsimp only
  (repeat' split) <;> first
    | exact .refl s
    | exact .of_eq rfl rfl rfl rfl rfl
    | exact (startEchoFailed_pools _ _).after (.of_eq rfl rfl rfl rfl rfl)

theorem lineLoss_pools (t : Time) (s : State) : PoolsKept s (lineLoss t s) := by
  unfold lineLoss
  split <;> first
    | exact .refl _
    | exact stepLoss_pools _ _
    | exact enterStopped_pools _

end Sys2Proof.Machine
end

