-- ==== Sys2Proof/WellFormed.lean ====
section
/-! DEFINITION. Which command terms describe an event that can arise at all (whatever the state). -/

namespace Sys2Proof

/-- A reception ends no earlier than it starts (R1). -/
def Reception.wf (r : Reception) : Bool := decide (r.start ≤ r.stop)

/-- Receptions in order on the line: each is well formed and ends no later than the next starts (R1). -/
def receptionsOrdered : List Reception → Bool
  | [] => true
  | [r] => r.wf
  | r :: q :: rest => r.wf && decide (r.stop ≤ q.start) && receptionsOrdered (q :: rest)

/-- A reception still present at the end of a span starts no earlier than every reception that ended in it stops
(R1). -/
def runsLast (heard : List Reception) : Option RunningCarrier → Bool
  | none => true
  | some c => heard.all (fun r => decide (r.stop ≤ c.start))

/-- A well-formed command: its receptions are in order (R1), an unknown command's code is 0 or 5 to 15 (R177),
and a write to COMMAND is one of the rows JOIN, LEAVE, FLUSH, SOFT_RESET and UNKNOWN_COMMAND (R168). -/
def Instr.wf : Instr → Bool
  | .powerOn => true
  | .resetPinAssert => true
  | .resetPinRelease => true
  | .cleanUpComplete => true
  | .join _ => true
  | .leave => true
  | .flush _ => true
  | .softReset => true
  | .unknownCommand code => code == 0 || decide (5 ≤ code.toNat)
  | .registerWrite _ addr _ => addr != 0
  | .eventsRead => true
  | .counterRead _ => true
  | .carrierDetect _ _ => true
  | .listenTimerExpiry _ => true
  | .coldStartDelayEnd _ => true
  | .transmissionEnd _ => true
  | .lineLostTimerExpiry _ => true
  | .ownBid => true
  | .slotReport line => receptionsOrdered line.heard && runsLast line.heard line.carrierAtEnd
  | .unslottedReception r => r.wf
  | .cycleBoundary => true
  | .tableSend => true
  | .frameRequest => true
  | .staleTimerExpiry _ _ _ => true
  | .ingressWord _ _ => true
  | .egressWordTaken => true
  | .readCapture _ => true

end Sys2Proof
end

