-- ==== Sys2Proof/Tests/Slice0.lean ====
section
/-! SUPPORT. Tests: the well-formedness checks, examples worked in the manual, and for each statement with hypotheses a
state and operands that meet them. -/

namespace Sys2Proof.Tests

open Sys2Proof Sys2Proof.Machine

-- Many kernel evaluations in one file: one after the other, so that none waits on a thread of its own.
set_option Elab.async false

/-! ### Well-formedness: one term that each check refuses, and one it lets pass -/

theorem test_wf_unknownCommand_refused : (Instr.unknownCommand 4).wf = false := by decide
theorem test_wf_unknownCommand_passes : ((Instr.unknownCommand 0).wf && (Instr.unknownCommand 5).wf) = true := by decide
theorem test_wf_registerWrite_refused : (Instr.registerWrite 0 0x00 1).wf = false := by decide
theorem test_wf_reception_refused : (Instr.unslottedReception ⟨5, 4, []⟩).wf = false := by decide
theorem test_wf_reception_passes : (Instr.unslottedReception ⟨5, 5, []⟩).wf = true := by decide
theorem test_wf_slotReport_reception_refused : (Instr.slotReport ⟨false, [⟨5, 4, []⟩], none⟩).wf = false := by decide
theorem test_wf_slotReport_order_refused :
    (Instr.slotReport ⟨false, [⟨0, 9, []⟩, ⟨8, 12, []⟩], none⟩).wf = false := by decide
theorem test_wf_slotReport_running_refused :
    (Instr.slotReport ⟨false, [⟨0, 9, []⟩], some ⟨8, []⟩⟩).wf = false := by decide
theorem test_wf_slotReport_passes :
    (Instr.slotReport ⟨false, [⟨0, 9, []⟩, ⟨9, 12, []⟩], some ⟨12, []⟩⟩).wf = true := by decide

/-! ### States for the tests -/

/-- The part after its clean-up, in station state `x`, the receiver enabled at moment 0. -/
def inState (x : StationState) : State :=
  { State.reset with
    cleaning := false, cyc := { Cyc.reset with state := x }, lif := { Lif.reset with receiver := .on, receiverSince := some 0 } }

/-- The profile of a line of `n` stations, otherwise the defaults. -/
def lineOf (n : BitVec 5) : Profile := { Profile.reset with n := n }

/-- `s` on a line of four stations. -/
def onFour (s : State) : State := { s with mgt := { s.mgt with profile := lineOf 4 } }

/-- `s` at a position, with the announcement phase starting at 1 ms and the data phase at 2 ms. -/
def at' (p : Position) (s : State) : State :=
  { s with cyc := { s.cyc with
      position := p, timingLock := true, annStart := some (us 1000), dataStart := some (us 2000),
      dataEnd := some (us 3000) } }

/-- The state a command leads to. -/
def after (c : Instr) (s : State) : State :=
  match exec c s with
  | .next t => t
  | _ => s

/-- A BID of station `k` with the check of `p`, no flag and no demand. -/
def bidOf (k : Station) (p : Profile) : BidFrame := ⟨k, 7, false, false, false, p.check, 0x1234, Four.all 0⟩

/-- The reception of a frame that starts at `t`. -/
def heard (t : Time) (f : Frame) : Reception := ⟨t, t + 40 * f.bits.length, f.bits⟩

/-- A span in which one frame was heard from its start to its end. -/
def only (r : Reception) : SpanLine := ⟨false, [r], none⟩

/-! ### Formats written out from chapter 11 -/

theorem test_start_bytes : (Frame.start 9 0x37).body = [0x90, 0x37] := by decide
theorem test_bid_bytes :
    (Frame.bid ⟨3, 0x0128, false, true, false, 0x5E, 0xBEEF, ⟨1, 2, 0, 128⟩⟩).body =
      [0x32, 0x01, 0x28, 0x5E, 0xBE, 0xEF, 1, 2, 0, 128] := by decide
theorem test_segment_header_bytes :
    (segmentBody ⟨1, 3, true, false, .group 5, 10, 5, 1000, 0, 15, []⟩) = [0x1E, 0x45, 10, 5, 0x03, 0xE8, 0, 15] := by
  decide
theorem test_abort_bytes : (Frame.abort ⟨3, 1, 8, 2⟩).body = [0x34, 8, 2] := by decide
theorem test_empty_bits : (Frame.empty ⟨2, 1, 0⟩).bits.length = 56 := by decide +kernel

/-- A START of station 2 with check 0x11, bit by bit, is read as it is sent; with one bit of its check changed it is
not. -/
theorem test_start_read :
    let bytes : List Byte := [0xAA, 0x9B, 0x5A, 0x20, 0x11]
    let crc := crc16 [0x5A, 0x20, 0x11]
    frameOfBits ((bytes ++ [hiByte crc, loByte crc]).flatMap byteBits) = some (.start 2 0x11) ∧
      frameOfBits ((bytes ++ [hiByte crc, loByte (crc ^^^ 1)]).flatMap byteBits) = none := by decide +kernel

/-- The CRC of R2 over the nine digits "123456789" is the known check value of this polynomial and start value. -/
theorem test_crc : crc16 [0x31, 0x32, 0x33, 0x34, 0x35, 0x36, 0x37, 0x38, 0x39] = 0x29B1 := by decide +kernel

/-- Carrier for one byte time after the check is allowed, one bit more is not (R2, condition 3). -/
theorem test_trailing_carrier :
    frameOfBits ((Frame.start 2 0x11).bits ++ List.replicate 8 true) = some (.start 2 0x11) ∧
      frameOfBits ((Frame.start 2 0x11).bits ++ List.replicate 9 true) = none := by decide +kernel

/-- An ABORT of station 3 in class 1 with bits 1:0 of its head set, which belong to no field (R175), 8 bits of carrier
behind it, and noise before it; a code that names no kind; and a body one byte short (R2, conditions 1 to 3). -/
theorem test_frame_layout :
    let sent (bytes : List Byte) : List Bool :=
      (syncBytes ++ bytes ++ [hiByte (crc16 bytes), loByte (crc16 bytes)]).flatMap byteBits
    frameOfBits ([true, true, false] ++ sent [0x99, 0x37, 8, 2] ++ List.replicate 8 false) = some (.abort ⟨3, 1, 8, 2⟩) ∧
      frameOfBits (sent [0x98, 0x34, 8, 2]) = none ∧ frameOfBits (sent [0x99, 0x34, 8]) = none := by decide +kernel

/-- Two egress words and two ingress words, from 11.2. -/
theorem test_tributary_words :
    deliveredHead1 ⟨3, 1, 9, 8, 32, .superseded, []⟩ = 0x02090813 ∧
      noticeHead ⟨.refused, 2, none, 7, some .broken, false, 0⟩ = 0x80070022 ∧
      noticeTail ⟨.refused, 2, none, 7, some .broken, false, 3⟩ = 0x00000306 ∧
      firstHeadOf 0x00030011 = ⟨1, .station 3, true⟩ ∧ headTag 0x000A0007 = 7 ∧ headLength 0x000A0007 = 10 := by
  decide

/-! ### Examples worked in the manual -/

/-- Chapter 5, cycle 120: four stations, rotation order 2, 3, 0, 1. -/
theorem test_allocation_cycle_120 :
    let p : Profile := ⟨4, 16, 4, 4, 2, 1, 3⟩
    let row : SchedRow := ⟨true, 0, 0, 0, 0⟩
    let as := settleAccounts p false
      [openAccount 2 ⟨2, 5, 4, 0⟩ row, openAccount 3 ⟨3, 0, 0, 20⟩ row, openAccount 0 ⟨1, 3, 0, 10⟩ row,
        openAccount 1 ⟨0, 0, 6, 0⟩ row]
    grantListOf false as =
        ⟨[⟨2, 0, 2, 0⟩, ⟨2, 1, 4, 2⟩, ⟨2, 2, 2, 6⟩, ⟨3, 0, 2, 8⟩, ⟨3, 3, 1, 10⟩, ⟨0, 1, 3, 11⟩, ⟨0, 3, 1, 14⟩,
          ⟨1, 2, 1, 15⟩], false, 16⟩ ∧
      as.map (fun a => a.deficit) = [⟨0, 0, 0, 0⟩, ⟨0, 0, 0, 0⟩, ⟨0, 0, 0, 0⟩, ⟨0, 0, 1, 0⟩] ∧
      rotationOrder [0, 1, 2, 3] 2 = [2, 3, 0, 1] ∧ nextPointer [2, 3, 0, 1] 2 = 3 := by decide +kernel

/-- Chapter 5, cycle 121: a table transfer is placed, and station 1 loses its credit. -/
theorem test_allocation_cycle_121 :
    let p : Profile := ⟨4, 16, 4, 4, 2, 1, 3⟩
    let row : SchedRow := ⟨true, 0, 0, 0, 0⟩
    let as := settleAccounts p true
      [openAccount 3 ⟨1, 0, 0, 19⟩ row, openAccount 0 ⟨1, 0, 0, 9⟩ row, openAccount 1 ⟨0, 0, 0, 0⟩ ⟨true, 0, 0, 1, 0⟩,
        openAccount 2 ⟨0, 3, 2, 0⟩ row]
    grantListOf true as =
        ⟨[⟨3, 0, 1, 4⟩, ⟨3, 3, 4, 5⟩, ⟨0, 0, 1, 9⟩, ⟨0, 3, 1, 10⟩, ⟨2, 1, 3, 11⟩, ⟨2, 2, 2, 14⟩], true, 16⟩ ∧
      as.map (fun a => a.deficit) = List.replicate 4 ⟨0, 0, 0, 0⟩ := by decide +kernel

/-- Chapter 3: five stations, digests d, d, e, d, d: the reference is d, station 2 is not eligible, and the source is
station 0. -/
theorem test_agreement_five_stations :
    let bid (k : Station) (g : BidFlag) (h : Half) : BidRecord := ⟨.valid ⟨k, 40, g, h, Four.all 0⟩, false, none, false⟩
    let t : BidTable :=
      ⟨[bid 0 .none 0xD, bid 1 .none 0xD, bid 2 .resync 0xE, bid 3 .none 0xD, bid 4 .resync 0xD] ++
        List.replicate 11 BidRecord.clear, false⟩
    let d : Sched := Sched.mapRows (fun k _ => ⟨k.val < 5, 0, 0, 0, 0⟩) Sched.empty
    announcement 2 t d = ⟨some 0xD, [0, 1, 3, 4], some 0, true, false, false⟩ := by decide +kernel

/-- Chapter 7, event 5: fragment 3 where fragment 2 was expected ends the context as a gap, with a Truncated prefix. -/
theorem test_reassembly_gap :
    let a : Context := ⟨1, 3, 10, 5, .station 0, 100, 2, List.replicate 4 blankBuffer, 0⟩
    let s := onFour (inState .inStep)
    let s := { s with
      ras := ⟨496, [a]⟩, mgt := { s.mgt with settings := { s.mgt.settings with damaged := true } } }
    let t := takeSegment 9 ⟨1, 3, false, true, .station 0, 10, 5, 100, 3, 0, blankBuffer⟩ s
    t.ras.free = 498 ∧ t.ras.contexts = [] ∧ t.mgt.counters.rxGapAbort = 1 ∧
      t.trb.framer =
        .emitting (.delivered ⟨1, 3, 5, 10, 64, .gap, List.replicate 2 blankBuffer⟩) 0 := by decide +kernel

/-- Chapter 7, event 6: a First and Last segment supersedes the open context of its key and completes at once. -/
theorem test_reassembly_supersede :
    let b : Context := ⟨3, 1, 8, 9, .group 2, 80, 1, List.replicate 3 blankBuffer, 0⟩
    let s := onFour (inState .inStep)
    let s := { s with ras := ⟨495, [b]⟩ }
    let t := takeSegment 9 ⟨3, 1, true, true, .all, 9, 10, 20, 0, 0, blankBuffer⟩ s
    t.ras.free = 497 ∧ t.ras.contexts = [] ∧ t.mgt.counters.rxGapAbort = 1 ∧
      t.trb.framer = .emitting (.delivered ⟨3, 1, 10, 9, 20, .complete, [blankBuffer]⟩) 0 := by decide +kernel

/-- Chapter 8, Weighted egress: boundaries 3, 5 and 7. -/
theorem test_weighted_boundaries :
    let w : Four (BitVec 4) := ⟨2, 1, 3, 1⟩
    let r : DeliveredRecord := ⟨1, 0, 0, 0, 1, .complete, []⟩
    (chooseWeighted w ⟨⟨[r], [r], [r, r], []⟩, [], 0, 0, 2⟩ = some (1, 1)) ∧
      (chooseWeighted w ⟨⟨[r], [], [r, r], []⟩, [], 0, 1, 1⟩ = some (2, 1)) ∧
      (chooseWeighted w ⟨⟨[r], [], [], []⟩, [], 0, 2, 2⟩ = some (0, 1)) := by decide

/-- Chapter 10: a JOIN with A = 20 above B = 16 is refused with ExpressCap; with A = 6 it enters LISTEN. -/
theorem test_join_refused_and_taken :
    let s := { inState .config with mgt := { Mgt.reset with
      profile := ⟨8, 16, 20, 8, 4, 2, 3⟩, settings := { LocalSettings.reset with station := 5 } } }
    let u := { s with mgt := { s.mgt with profile := { s.mgt.profile with a := 6 } } }
    (after (.join 0) s).mgt.refusal = .expressCap ∧ (after (.join 0) s).mgt.events.joinRef = true ∧
      (after (.join 0) s).cyc.state = .config ∧ (after (.join 0) u).cyc.state = .listen := by decide +kernel

/-- Chapter 4: a member silent for the third cycle in a row is removed at silence limit 3, its credit with it. -/
theorem test_removal_at_the_silence_limit :
    updateRow 3 .silent true ⟨true, 2, 0, 0, 1⟩ = SchedRow.clear ∧
      updateRow 3 .silent true ⟨true, 1, 0, 0, 1⟩ = ⟨true, 2, 0, 0, 1⟩ := by decide

/-! ### Witnesses: for each statement with hypotheses, states and operands that meet them, clause by clause -/

/-- A notice and a delivered record for the tests. -/
def aNotice : Notice := ⟨.sent, 1, some 3, 7, none, false, 0⟩
def aRecord : DeliveredRecord := ⟨1, 0, 5, 9, 32, .complete, [blankBuffer]⟩

/-- A TABLE whose state is all zero, with the largest remaining count. -/
def aTable : TableFrame := ⟨1, 0, List.replicate 69 0, 0, 60⟩

theorem test_witness_StepTakesFrontCommand :
    ({ State.reset with pending := [.leave, .softReset] } : State).pending = .leave :: [.softReset] ∧
      State.reset.pending = [] := by decide

theorem test_witness_PowerAndResetPin :
    let s := { State.reset with trb := ⟨.skip, .breakPending⟩ }
    let held := { s with pins := { s.pins with resetPin := true } }
    s.pins.resetPin = false ∧ s.trb.framer = .breakPending ∧ held.pins.resetPin = true := by decide

theorem test_witness_SoftReset : (inState .inStep).pins.resetPin = false := by decide

theorem test_witness_SoftResetBreaksEmission :
    let emitting := { inState .inStep with trb := ⟨.idle, .emitting (.notice aNotice) 1⟩ }
    let pending := { inState .inStep with
      trb := ⟨.idle, .breakPending⟩, dlv := { Dlv.reset with notices := List.replicate 15 aNotice } }
    (emitting.pins.resetPin = false ∧ emitting.breakHeld = false ∧
        emitting.trb.framer = .emitting (.notice aNotice) 1) ∧
      ((inState .inStep).pins.resetPin = false ∧ (inState .inStep).trb.framer = .idle) ∧
      (pending.pins.resetPin = false ∧ pending.breakHeld = false ∧ pending.trb.framer = .breakPending ∧
        Instr.softReset ≠ .egressWordTaken ∧ Instr.softReset ≠ .powerOn ∧ Instr.softReset ≠ .resetPinAssert ∧
        pending.dlv.notices.length < 16) := by decide

/-- JOIN: the two ends of every range pass, and each check in turn is the first that fails. -/
theorem test_witness_JoinCommand :
    let l (st w : BitVec 4) : LocalSettings := { LocalSettings.reset with station := st, weights := Four.all w }
    let pass (x : StationState) : Prop := (inState x).pins.resetPin = false ∧ (inState x).cyc.state = x
    (pass .config ∧ pass .stopped ∧ pass .listen ∧ pass .halted) ∧
      joinValidation ⟨2, 8, 0, 1, 1, 1, 2⟩ (l 1 1) = .none ∧ joinValidation ⟨16, 128, 128, 32, 32, 32, 7⟩ (l 15 8) = .none ∧
      joinValidation ⟨1, 7, 8, 0, 0, 0, 0⟩ (l 1 0) = .lineSize ∧ joinValidation ⟨17, 8, 0, 1, 1, 1, 2⟩ (l 1 1) = .lineSize ∧
      joinValidation ⟨2, 7, 8, 0, 0, 0, 0⟩ (l 2 0) = .budget ∧ joinValidation ⟨2, 129, 0, 1, 1, 1, 2⟩ (l 1 1) = .budget ∧
      joinValidation ⟨2, 8, 9, 0, 0, 0, 0⟩ (l 2 0) = .expressCap ∧ joinValidation ⟨2, 8, 8, 1, 1, 0, 0⟩ (l 2 0) = .quantum ∧
      joinValidation ⟨2, 8, 8, 1, 33, 1, 0⟩ (l 2 0) = .quantum ∧ joinValidation ⟨2, 8, 8, 1, 1, 1, 1⟩ (l 2 0) = .silenceLimit ∧
      joinValidation ⟨2, 8, 8, 1, 1, 1, 2⟩ (l 2 0) = .stationNumber ∧ joinValidation ⟨2, 8, 8, 1, 1, 1, 2⟩ (l 1 0) = .weight ∧
      joinValidation ⟨2, 8, 8, 1, 1, 1, 2⟩ (l 1 9) = .weight := by decide +kernel

theorem test_witness_LeaveAndFlush :
    ∀ x ∈ [StationState.config, .listen, .starting, .joining, .inStep, .blind, .outOfStep, .leaving, .stopped, .halted],
      (inState x).pins.resetPin = false ∧ (inState x).cyc.state = x := by decide

theorem test_witness_SettingWriteReadsBack :
    (inState .config).pins.resetPin = false ∧ (inState .config).cyc.state = .config ∧
      (inState .config).mgt.settings.steer.length = 16 ∧
      ∀ a ∈ [(0x10 : BitVec 7), 0x16, 0x18, 0x1B, 0x20, 0x3F], isSettingAddr a.toNat = true := by decide

theorem test_witness_OtherRegisterWrites :
    (inState .listen).pins.resetPin = false ∧ (inState .listen).cyc.state ≠ .config ∧ isSettingAddr 0x3F = true ∧
      (∀ a ∈ [(0x01 : BitVec 7), 0x03, 0x0F, 0x17, 0x1C, 0x1F, 0x40, 0x7F],
        a ≠ 0x00 ∧ a ≠ 0x02 ∧ isSettingAddr a.toNat = false) ∧
      ((0x0001 : Half).extractLsb' 0 4).toNat = 1 ∧ ((0x0002 : Half).extractLsb' 0 4).toNat = 2 ∧
      ((0x0303 : Half).extractLsb' 0 4).toNat = 3 ∧ ((0x0004 : Half).extractLsb' 0 4).toNat = 4 ∧
      (0x0010 : Half).extractLsb' 0 4 = 0 ∧ 5 ≤ ((0x0005 : Half).extractLsb' 0 4).toNat ∧
      5 ≤ ((0x000F : Half).extractLsb' 0 4).toNat := by decide

theorem test_witness_RegisterReads :
    let got : EventFlags := { EventFlags.clear with state := true, cmdRef := true }
    let s := { inState .listen with mgt := { Mgt.reset with capture := some ⟨0x01, got.toHalf⟩ } }
    let k := { inState .listen with mgt := { Mgt.reset with
      capture := some ⟨counterAddr .queueOverflow3, 4⟩, counters := { Counters.clear with queueOverflow3 := 4 } } }
    s.pins.resetPin = false ∧ s.mgt.capture = some ⟨0x01, got.toHalf⟩ ∧ k.pins.resetPin = false ∧
      k.mgt.capture = some ⟨counterAddr .queueOverflow3, 4⟩ ∧
      (4 : Half).toNat ≤ (k.mgt.counters.get .queueOverflow3).toNat ∧ s.txq.free ≤ 256 ∧ s.ras.free ≤ 512 ∧
      (8 ≤ 23 ∧ 23 < 24) ∧ (0x01 : BitVec 7) ≠ counterAddr .queueOverflow3 ∧
      ([] : List Bool).length ≠ 8 ∧ ([] : List Bool).length ≠ 24 := by
  decide

/-- ATTN with an event that is not masked, with the same event masked, and with the RESET pin asserted (R171); TXEN
with a frame in transmission and without (R1, R22). -/
theorem test_attn_and_txen :
    let s (e m : EventFlags) (r : Bool) : State :=
      { inState .listen with mgt := { Mgt.reset with events := e, mask := m },
                             pins := { (inState .listen).pins with resetPin := r } }
    let halt : EventFlags := { EventFlags.clear with halt := true }
    attnPin (s halt EventFlags.clear false) = true ∧ attnPin (s halt halt false) = false ∧
      attnPin (s halt EventFlags.clear true) = false ∧ txenPin (inState .listen) = false ∧
      txenPin { inState .listen with lif := { Lif.reset with tx := some (.start 0 0) } } = true := by decide

/-- A steering entry, its two registers, and a setting of each register below them (11.3). -/
theorem test_settings_registers :
    let x : SteerEntry := ⟨true, 5, 4, 0x12, 0xAB, 0xF0⟩
    let l := LocalSettings.reset
    let s := { inState .config with mgt := { Mgt.reset with
      settings := { l with steer := l.steer.set 15 x, damaged := true, mode := 1, weights := ⟨1, 2, 3, 4⟩ } } }
    s.mgt.settings.steer[15]? = some x ∧ readRegister s 0x3E = 0xD412 ∧ readRegister s 0x3F = 0xABF0 ∧
      readRegister s 0x1A = 0x0011 ∧ readRegister s 0x1B = 0x4321 ∧ readRegister s 0x10 = 16 ∧
      readRegister s 0x15 = 2 := by decide +kernel

/-- The 24 bits of a write of 0x8001 to register 0x41, written out from R165, and the bit MISO drives first and last. -/
theorem test_spi_bits :
    spiBits true 0x41 0x8001 =
        [true, true, false, false, false, false, false, true,
          true, false, false, false, false, false, false, false, false, false, false, false, false, false, false, true] ∧
      spiEdge 9 (spiBits true 0x02 0x8001) = some (.registerWrite 9 0x02 0x8001) ∧
      spiEdge 9 (spiBits true 0x00 0x0203) = some (.flush 2) ∧
      spiEdge 9 [false, false, false, false, false, false, true, true] = some (.readCapture 0x03) ∧
      (let s := after (.readCapture 0x0D) State.reset
       misoBit s (some ((spiBits false 0x0D 0).take 16)) = some (Profile.reset.check.getLsbD 7) ∧
         misoBit s (some ((spiBits false 0x0D 0).take 23)) = some (Profile.reset.check.getLsbD 0) ∧
         misoBit s (some (spiBits false 0x0D 0)) = none) := by decide +kernel

theorem test_witness_EnterListenEffects :
    let s := inState .joining
    s.cyc.leavePending = false ∧ s.cyc.state ≠ .listen ∧
      ({ s with cyc := { s.cyc with leavePending := true } } : State).cyc.leavePending = true ∧
      (inState .inStep).cyc.state = .inStep ∧
      (startEchoFailed 5 (at' (.announce 1) (onFour (inState .blind)))).cyc.state = .listen := by decide +kernel

theorem test_witness_CarrierAndColdStart :
    let rising := inState .listen
    let falling := { inState .listen with pins := ⟨true, 7, false⟩ }
    let counting (since : Time) := { inState .listen with
      cyc := { Cyc.reset with state := .listen, listenTimer := .running since } }
    let delayed := { inState .starting with cyc := { Cyc.reset with state := .starting, coldStart := .running 0 } }
    (rising.pins.cd = false ∧ ¬(rising.cyc.state = .starting ∧ rising.cyc.coldStart ≠ .stopped)) ∧
      (delayed.pins.cd = false ∧ delayed.cyc.state = .starting ∧ delayed.cyc.coldStart ≠ .stopped) ∧
      falling.pins.cd = true ∧ (counting 3).cyc.listenTimer = .running 3 ∧ (3 : Time) + us 5000 ≤ 5000003 ∧
      (5000002 : Time) < 3 + us 5000 ∧ rising.cyc.state ≠ .starting ∧
      delayed.cyc.coldStart = .running 0 ∧ (0 : Time) + us (250 * (ownNumber delayed).val) ≤ 0 := by decide +kernel

/-- An expiry before its time meets the hypotheses about timers that are not due. -/
theorem test_witness_timers_not_due :
    (∀ since, ({ inState .listen with cyc := { Cyc.reset with listenTimer := .running 3 } } : State).cyc.listenTimer =
      .running since → (5000002 : Time) < since + us 5000) ∧
    (∀ since, ({ inState .listen with cyc := { Cyc.reset with lineLost := .running 3 } } : State).cyc.lineLost =
      .running since → (5000002 : Time) < since + us 5000) ∧
    (∀ c, findContext 1 0 { inState .listen with ras := ⟨510, [⟨1, 0, 0, 0, .all, 64, 1, [blankBuffer, blankBuffer], 3⟩]⟩ } =
      some c → (50000002 : Time) < c.since + us 50000) := by
  refine ⟨fun since h => ?_, fun since h => ?_, fun c h => ?_⟩
  · cases h; decide
  · cases h; decide
  · simp [findContext] at h
    subst h; decide

theorem test_witness_TransmissionEnd :
    let f : Frame := .start 0 0x11
    let e : Frame := .empty ⟨0, 1, 0⟩
    let founder (x : StationState) (seen : Bool) (res : Option Bool) : State :=
      { inState x with lif := ⟨.on, some 0, some f, none, some ⟨f, seen, res⟩, []⟩ }
    let own (r : Receiver) (p : Position) (g : Frame) (seen : Bool) (res : Option Bool) : State :=
      at' p { inState .inStep with lif := ⟨r, some 0, some g, some ⟨g, seen, res⟩, none, []⟩ }
    (∀ res ∈ [none, some true],
      (founder .starting true res).lif.tx = some f ∧ (founder .starting true res).lif.startEcho = some ⟨f, true, res⟩ ∧
        res ≠ some false ∧ (founder .starting true res).lif.receiver = .on ∧
        (founder .starting true res).cyc.state = .starting) ∧
      (founder .starting true (some false)).cyc.leavePending = false ∧
      (founder .starting false none).lif.startEcho = some ⟨f, false, none⟩ ∧ (inState .inStep).lif.tx = none ∧
      e.kind ≠ .start ∧ (Frame.table aTable).kind = .table ∧
      (own .on (.dataFixed (some 0)) (.table aTable) true none).lif.tx = some (.table aTable) ∧
      (own .on (.dataFixed (some 0)) e true none).cyc.position ≠ .none ∧
      (own .on .none e true none).cyc.position = .none ∧
      (founder .listen false none).lif.tx = some f ∧ (founder .listen false none).cyc.state ≠ .starting ∧
      (∀ g ∈ [e, f, .table aTable], (own .finishing .none g true none).lif.receiver = .finishing ∧
        (own .finishing .none g true none).lif.tx = some g) ∧
      ({ own .finishing .none e true none with lif := ⟨.finishing, some 0, some e, none, none, []⟩ } : State).lif.echo =
        none := by
  decide +kernel

theorem test_witness_LineLost :
    let s (x : StationState) : State := { inState x with cyc := { Cyc.reset with state := x, lineLost := .running 3 } }
    (∀ x ∈ [StationState.listen, .starting, .joining, .inStep, .blind, .outOfStep, .leaving],
      (s x).cyc.lineLost = .running 3 ∧ (s x).cyc.state = x) ∧
      (3 : Time) + us 5000 ≤ 5000003 ∧ ({ s .inStep with pins := ⟨true, 0, false⟩ } : State).pins.cd = true := by
  decide +kernel

theorem test_witness_EveryCommandKeeps :
    isReset .leave = false ∧ Instr.leave ≠ .eventsRead ∧ Instr.leave ≠ .counterRead .stepLosses ∧
      Instr.leave ≠ .powerOn ∧ Instr.leave ≠ .resetPinAssert ∧ (inState .halted).cyc.state = .halted ∧
      (after .leave (inState .listen)).cyc.state ≠ (inState .listen).cyc.state ∧
      (after (.registerWrite 0 0x10 4) (inState .config)).mgt.profile ≠ (inState .config).mgt.profile ∧
      (after (.registerWrite 0 0x02 4) (inState .config)).mgt.mask ≠ (inState .config).mgt.mask := by decide +kernel

theorem test_witness_EgressWordTaken :
    let s (i : Nat) : State := { inState .inStep with trb := ⟨.idle, .emitting (.delivered aRecord) i⟩ }
    let n : State := { inState .inStep with trb := ⟨.idle, .emitting (.notice aNotice) 1⟩ }
    evalidPin (inState .inStep) = false ∧ (s 8).pins.resetPin = false ∧ 8 + 1 < egressWordCount (.delivered aRecord) ∧
      9 + 1 = 2 + (aRecord.len + 3) / 4 ∧ n.trb.framer = .emitting (.notice aNotice) 1 ∧
      Instr.leave ≠ .egressWordTaken ∧ (offeredWord n).isSome = true := by decide +kernel

theorem test_witness_OwnBidComposed :
    (∀ x ∈ [StationState.joining, .inStep, .blind, .outOfStep],
      let s := at' (.announce 0) (onFour (inState x))
      s.lif.tx = none ∧ s.lif.echo = none ∧ s.cyc.state = x ∧ s.cyc.timingLock = true ∧
        s.cyc.position = .announce (ownNumber s).val ∧ (s.cyc.bids.record (ownNumber s).val).status = .unheard ∧
        s.cyc.annStart = some (us 1000) ∧ s.cyc.fixedAt = none ∧
        -- The last moment before the own window, and the moment at which it opens (R19).
        placedBefore 0 { s.cyc with fixedAt := some (us 1000 - 501) } = true ∧
        placedBefore 0 { s.cyc with fixedAt := some (us 1000 - 500) } = false) ∧
      ∀ x ∈ [StationState.config, .listen, .starting, .leaving, .stopped, .halted], (inState x).cyc.state = x := by
  decide +kernel

/-- Slot reports: a gap, and the first and the last bid slot of a line of four, Silent and Damaged. -/
theorem test_witness_GapAndBidSlotReports :
    let s (p : Position) := at' p (onFour (inState .inStep))
    ((s .gap).cyc.state.inactive = false ∧ (s .gap).cyc.position = .gap ∧ (s .gap).cyc.boundaryDue = false) ∧
      ∀ k ∈ [0, 3],
        (s (.announce k)).cyc.position = .announce k ∧ (s (.announce k)).cyc.annStart = some (us 1000) ∧
          k + 1 ≤ (s (.announce k)).mgt.profile.lineSize ∧ ((s (.announce k)).cyc.bids.record k).status = .unheard ∧
          (s (.announce k)).lif.echo = none ∧
          (let entered := enterRecord k ⟨.silent, false, none, true⟩ (s (.announce k))
           (entered.cyc.bids.record k).status ≠ .unheard ∧ entered.cyc.position = .announce k) ∧
          ∀ l ∈ [(⟨true, [], none⟩ : SpanLine), ⟨false, [], some ⟨us 1019, []⟩⟩],
            classifySlot (lineOf 4) (.bidSlot k) (us 1000 + us 6 * k) (us 1000 + us 6 * k + us 6 - 500) none l =
              .damaged := by decide +kernel

/-- A BID heard in bid slot `k` of four, the last among them, at the first and the last moment of its window, is Valid;
BIDs that CYC accepts and does not accept, and the states and numbers of each clause. -/
theorem test_witness_BidSlotHeard :
    let f (k : Station) := bidOf k (lineOf 4)
    let s (x : StationState) := at' (.announce 0) (onFour (inState x))
    (∀ k ∈ [(0 : Station), 3], ∀ d ∈ [(-500 : Time), 500],
      classifySlot (lineOf 4) (.bidSlot k.val) (us 1000 + us 6 * k.val) (us 1000 + us 6 * k.val + us 6 - 500) none
        (only (heard (us 1000 + us 6 * k.val + d) (.bid (f k)))) =
          .valid (.bid (f k)) (heard (us 1000 + us 6 * k.val + d) (.bid (f k)))) ∧
      (bidAccepted (lineOf 4) (f 3) = true ∧ bidAccepted (lineOf 4) { f 3 with check := (lineOf 4).check + 1 } = false ∧
        bidAccepted (lineOf 4) { f 3 with leaving := true, joining := true } = false) ∧
      (∀ x ∈ [StationState.listen, .joining, .inStep, .blind, .outOfStep, .leaving],
        (s x).cyc.state.hearsDuplicates = true ∧ ownNumber (s x) = 0 ∧ (s x).cyc.bids.damage = false) ∧
      (s .starting).cyc.state.hearsDuplicates = false ∧ (3 : Nat) ≠ (ownNumber (s .listen)).val ∧
      (s .listen).cyc.profileChecked = false := by decide +kernel

/-- The own bid slot, the first and the last: the echo heard back alone, heard back beside a further carrier, and no
carrier at all. -/
theorem test_witness_OwnEchoResult :
    let s (k : Station) : State :=
      let u := at' (.announce k.val) (onFour (inState .inStep))
      { u with lif := { u.lif with echo := some ⟨.bid (bidOf k (lineOf 4)), true, none⟩ },
               mgt := { u.mgt with settings := { u.mgt.settings with station := BitVec.ofFin k } } }
    let own (k : Station) : Frame := .bid (bidOf k (lineOf 4))
    let start (k : Station) : Time := us 1000 + us 6 * k.val
    let class' (k : Station) (l : SpanLine) : SlotClass :=
      classifySlot (lineOf 4) (.bidSlot k.val) (start k) (start k + us 6 - 500) (some (own k)) l
    let back (k : Station) : Reception := heard (start k) (own k)
    (∀ k ∈ [(0 : Station), 3], (s k).cyc.state.bids = true ∧ (s k).cyc.position = .announce k.val ∧
        (s k).cyc.bids.records.length = 16 ∧ ((s k).cyc.bids.record k.val).status = .unheard ∧
        k.val + 1 ≤ (s k).mgt.profile.lineSize ∧ bidAccepted (lineOf 4) (bidOf k (lineOf 4)) = true ∧
        class' k (only (back k)) = .valid (own k) (back k)) ∧
      (let l : SpanLine := ⟨false, [back 3, ⟨start 3 + us 5 + 100, start 3 + us 5 + 200, []⟩], none⟩
       class' 3 l = .damaged ∧ echoPassed (lineOf 4) (.bidSlot 3) (start 3) (start 3 + us 6 - 500) (some (own 3)) l = true) ∧
      class' 0 ⟨false, [], none⟩ = .damaged ∧
      echoPassed (lineOf 4) (.bidSlot 0) (start 0) (start 0 + us 6 - 500) (some (own 0)) ⟨false, [], none⟩ = false ∧
      (s 0).cyc.bids.damage = false ∧ (s 0).cyc.echoFault < 2 ∧
      ({ s 0 with cyc := { (s 0).cyc with echoFault := 2 } } : State).cyc.echoFault = 2 := by decide +kernel

/-- Data slots: a SEGMENT, an EMPTY and an ABORT in slot 0 and in slot 4 after a table block, an own one among them, and
one whose echo fails; the positions and layouts of each. -/
theorem test_witness_DataSlotReports :
    let p := lineOf 4
    let blank := List.replicate 32 (0 : Byte)
    let seg : Frame := .segment ⟨1, 3, true, true, .all, 0, 0, 1, 0, 0, blank⟩
    let s (x : Position) (l : Layout) (own : Option Frame) : State :=
      let u := at' x (onFour (inState .inStep))
      { u with cyc := { u.cyc with layout := l }, lif := { u.lif with echo := own.map (fun f => ⟨f, true, none⟩) } }
    let start (i : Nat) : Time := us 2000 + us 16 * i
    (∀ i ∈ [0, 4], ∀ x ∈ [Position.dataOpen i, .dataFixed (some i)], ∀ l ∈ [Layout.unknown, .placed, .notPlaced],
      (s x l none).cyc.state.inactive = false ∧ (s x l none).cyc.dataStart = some (us 2000) ∧
        (s x l none).cyc.position = x ∧ (s x l none).cyc.dataEnd = some (us 3000) ∧ start i < us 3000) ∧
      (∀ i ∈ [0, 4], ∀ f ∈ [seg, .empty ⟨1, 0, 59⟩, .abort ⟨1, 0, 0, 59⟩], ∀ own ∈ [none, some f],
        classifySlot p (.dataSlot i) (start i) (start i + us 16 - 500) own (only (heard (start i) f)) =
          .valid f (heard (start i) f)) ∧
      classifySlot p (.dataSlot 4) (start 4) (start 4 + us 16 - 500) (some seg) (only (heard (start 4) (.empty ⟨1, 0, 0⟩))) =
        .damaged ∧
      inTableBlock (⟨some ⟨[], true, 7⟩⟩ : Alc) 3 = true ∧ inTableBlock (⟨some ⟨[], true, 7⟩⟩ : Alc) 4 = false := by
  decide +kernel

theorem test_table_judged :
    judgeBits (lineOf 4) .tableBlock (Frame.bits (.table aTable)) = some (.table aTable) ∧
      judgeBits (lineOf 4) .unslottedHeld (Frame.bits (.table aTable)) = some (.table aTable) := by
  have h : frameOfBits (Frame.bits (.table aTable)) = some (.table aTable) := by
    rw [frameOfBits_bits _ (by decide)]
    decide +kernel
  exact ⟨(judgeBits_eq_some _ _ _ _).mpr ⟨h, by decide, by decide +kernel⟩,
    (judgeBits_eq_some _ _ _ _).mpr ⟨h, by decide, by decide +kernel⟩⟩

/-- A TABLE in the table block, this station's own or another's; with the layout unknown its code makes the span the
block, read from a reception over or from a carrier still going on. -/
theorem test_witness_DataSlotReports_table :
    let r : Reception := ⟨us 2000, us 2026, Frame.bits (.table aTable)⟩
    let unknown : Cyc := { (at' (.dataFixed (some 0)) State.reset).cyc with layout := .unknown }
    (∀ own ∈ [none, some (Frame.table aTable)],
      classifySlot (lineOf 4) .tableBlock (us 2000) (us 2000 + us 64 - 500) own (only r) = .valid (.table aTable) r) ∧
      overTableBlock 0 (us 2000) (only r) unknown = true ∧
      overTableBlock 0 (us 2000) ⟨false, [], some ⟨us 2000 + 500, r.bits⟩⟩ unknown = true ∧
      overTableBlock 0 (us 2000) ⟨false, [], some ⟨us 2000 + 501, r.bits⟩⟩ unknown = false ∧
      overTableBlock 4 (us 2000) (only r) unknown = false := by
  refine ⟨?_, by decide +kernel, by decide +kernel, by decide +kernel, by decide +kernel⟩
  intro own h
  rw [classifySlot_eq_valid]
  exact ⟨rfl, test_table_judged.1, by decide +kernel, by revert own; decide +kernel⟩

/-- Unslotted receptions: frames of each kind, with and without a position held, and one that is not Valid. -/
theorem test_witness_Unslotted :
    let p := lineOf 4
    (∀ f ∈ [Frame.bid (bidOf 3 p), .empty ⟨1, 0, 63⟩, .abort ⟨1, 0, 0, 63⟩,
        .segment ⟨1, 3, true, true, .all, 0, 0, 1, 0, 63, List.replicate 32 0⟩],
      judgeBits p .unslotted f.bits = some f ∧ judgeBits p .unslottedHeld f.bits = some f) ∧
      (∀ f ∈ [Frame.start 2 p.check, .start 0 (p.check + 1)],
        judgeBits p .unslotted f.bits = some f ∧ judgeBits p .unslottedHeld f.bits = none) ∧
      judgeBits p .unslotted [] = none ∧ bidAccepted p (bidOf 3 p) = true ∧
      bidAccepted p { bidOf 3 p with resync := true, joining := true } = false := by decide +kernel

/-- A state in which a BID is unslotted: station 0 of four in state `x`, at position `pos`, with the counts given. -/
def unslottedAt (pos : Position) (x : StationState) (l : Option LoadOutcome) (j a o : Nat) : State :=
  let s := at' pos (onFour (inState x))
  { s with cyc := { s.cyc with
      profileChecked := true, pendingLoad := l, joinCycle := j, joinAttempt := a, outOfStep := o,
      boundaryDue := decide (pos = .gap) } }

/-- The positions in which a BID is unslotted, with the last moment before a gap span that a START or the end of a data
phase fixes. -/
theorem test_witness_UnslottedBid_positions :
    (∀ pos ∈ [Position.none, .dataFixed none, .dataOpen 3, .gap],
      let s := unslottedAt pos .listen none 0 0 0
      s.lif.receiver = .on ∧ s.lif.receiverSince = some 0 ∧ s.lif.startEcho = none ∧ s.cyc.state.inactive = false ∧
        s.cyc.position = pos ∧ (pos = .gap → s.cyc.boundaryDue = true)) ∧
      (let s := unslottedAt (.announce 0) .listen none 0 0 0
       let s := { s with cyc := { s.cyc with unslottedUntil := some (us 990 - 500) } }
       s.cyc.unslottedUntil = some (us 990 - 500) ∧ us 990 - 501 < us 990 - 500) := by decide +kernel

/-- The states and counts of each clause, at both ends of the ranges, each with a step that answers; the own number
halts the station in LEAVING and at the last JOINING boundary of all. -/
theorem test_witness_UnslottedBid_states :
    let p := lineOf 4
    let r (f : BidFrame) : Reception := heard (us 1018) (.bid f)
    let s := unslottedAt .none
    let goes (f : BidFrame) (u : State) : StationState := (after (.unslottedReception (r f)) u).cyc.state
    let other := bidOf 3 p
    (goes other (s .listen none 0 0 0) = .listen ∧ goes other (s .starting none 0 0 0) = .starting ∧
        goes other (s .inStep none 0 0 0) = .inStep ∧ goes other (s .blind none 0 0 0) = .outOfStep ∧
        (∀ x ∈ [StationState.joining, .blind, .outOfStep], goes other (s x (some .member) 7 3 15) = .inStep) ∧
        (∀ x ∈ [StationState.blind, .outOfStep], goes other (s x (some .notMember) 0 0 15) = .joining) ∧
        (∀ j ∈ [0, 6], goes other (s .joining (some .notMember) j 0 0) = .joining) ∧
        (∀ o ∈ [0, 14], goes other (s .outOfStep none 0 0 o) = .outOfStep)) ∧
      ((∀ a ∈ [0, 2], goes other (s .joining none 7 a 0) = .listen) ∧ goes other (s .outOfStep none 0 0 15) = .listen ∧
        goes { other with check := p.check + 1 } (s .outOfStep none 0 0 15) = .halted ∧
        (let u := s .outOfStep none 0 0 15
         goes other { u with cyc := { u.cyc with leavePending := true } } = .stopped) ∧
        goes other (s .joining none 7 3 0) = .halted ∧ goes other (s .leaving none 0 0 0) = .stopped) ∧
      goes { other with check := p.check + 1 } { s .listen none 0 0 0 with cyc := { (s .listen none 0 0 0).cyc with
        profileChecked := false } } = .halted ∧
      ∀ u ∈ [s .leaving none 0 0 0, s .joining none 7 3 0, s .outOfStep none 0 0 15, s .inStep none 0 0 0],
        (after (.unslottedReception (r (bidOf 0 p))) u).cyc.haltCause = .duplicateNumber := by decide +kernel

/-- A station that is or gets IN_STEP goes blind by a slot passed with carrier, and by a BID that CYC does not accept; the
own BID heard back with no position held is no other station's. -/
theorem test_witness_UnslottedBid_blind :
    let p := lineOf 4
    let r (f : BidFrame) : Reception := heard (us 1018) (.bid f)
    let s (x : StationState) (l : Option LoadOutcome) : State := unslottedAt (.dataOpen 3) x l 0 0 0
    let carrier (u : State) : State := { u with lif := { u.lif with carriers := [(us 1006, us 1007)] } }
    let lone : State :=
      let u := unslottedAt .none .inStep none 0 0 0
      { u with lif := { u.lif with echo := some ⟨.bid (bidOf 0 p), true, none⟩ } }
    (after (.unslottedReception (r (bidOf 3 p))) (carrier (s .inStep none))).cyc.state = .blind ∧
      (after (.unslottedReception (r (bidOf 3 p))) (carrier (s .blind (some .member)))).cyc.state = .blind ∧
      (after (.unslottedReception (r { bidOf 3 p with check := p.check + 1 })) (s .inStep none)).cyc.state = .blind ∧
      slotWasSilent (us 1000) 1 (carrier (s .inStep none)).lif = false ∧
      slotWasSilent (us 1000) 2 (carrier (s .inStep none)).lif = true ∧
      (after (.unslottedReception (r (bidOf 0 p))) lone).cyc.state = .inStep := by decide +kernel

/-- A Valid BID of station 0 that opens with 20 bits before its preamble ends after the window of slot 1 has opened: station
1 sends no BID in that cycle (R19); one without them lets it bid. -/
theorem test_late_position :
    let p := lineOf 4
    let s : State :=
      let u := unslottedAt .none .inStep none 0 0 0
      { u with mgt := { u.mgt with settings := { u.mgt.settings with station := 1 } } }
    let bid := (Frame.bid (bidOf 0 p)).bits
    let bidding (bits : List Bool) : State :=
      after (.slotReport ⟨false, [], none⟩) (after (.unslottedReception ⟨us 1000, us 1000 + 40 * bits.length, bits⟩) s)
    (bidding bid).cyc.position = .announce 1 ∧ bidPlaceable (bidding bid) = true ∧
      (bidding (List.replicate 20 false ++ bid)).cyc.position = .announce 1 ∧
      bidPlaceable (bidding (List.replicate 20 false ++ bid)) = false := by decide +kernel

/-- A carrier in the span of slot 0 is still remembered when a long BID of station 15 ends, and slot 0 is entered as
Damaged (R15). -/
theorem test_carrier_before_long_bid :
    let s := unslottedAt .none .listen none 0 0 0
    let s := { s with mgt := { s.mgt with profile := lineOf 16 } }
    let long : List Bool := List.replicate 500 false ++ (Frame.bid (bidOf 15 (lineOf 16))).bits
    let commands : List Instr := [.carrierDetect (us 1001) true, .carrierDetect (us 1002) false,
      .carrierDetect (us 1090) true, .carrierDetect (us 1090 + 40 * long.length) false,
      .unslottedReception ⟨us 1090, us 1090 + 40 * long.length, long⟩]
    let t := commands.foldl (fun s c => after c s) s
    us 1002 + us 106 < us 1090 + 40 * long.length ∧ t.cyc.position = .announce 15 ∧
      (t.cyc.bids.record 0).status = .damaged ∧ (t.cyc.bids.record 1).status = .silent := by decide +kernel

/-- Receptions that are no BID: a receiver that finishes, the founder's echo, a START with no position held and with one,
and a data-phase frame that began before the gap. -/
theorem test_witness_UnslottedOthers :
    let p := lineOf 4
    let f : Frame := .start 0 p.check
    let r (g : Frame) : Reception := heard (us 500) g
    let finishing (tx : Option Frame) : State :=
      { inState .stopped with lif := ⟨.finishing, some 0, tx, some ⟨f, true, none⟩, none, []⟩ }
    let founder (x : StationState) : State :=
      let s := at' .gap (onFour (inState x))
      { s with lif := { s.lif with startEcho := some ⟨f, true, none⟩ } }
    let s (x : StationState) (checked : Bool) : State :=
      let u := at' .none (onFour (inState x))
      { u with cyc := { u.cyc with profileChecked := checked } }
    State.reset.lif.receiver = .off ∧ (finishing none).lif.tx = none ∧ (finishing (some f)).lif.tx ≠ none ∧
      (finishing (some f)).lif.echo = some ⟨f, true, none⟩ ∧
      (∀ x ∈ [StationState.inStep, .blind, .outOfStep], (founder x).lif.receiver = .on ∧
        (founder x).lif.startEcho = some ⟨f, true, none⟩ ∧ (founder x).lif.tx = none ∧ (founder x).cyc.timingLock = true ∧
        (after (.unslottedReception (r (.start 1 0))) (founder x)).cyc.state = .listen) ∧
      (let u := { founder .starting with lif := { (founder .starting).lif with tx := some f } }
       u.lif.tx = some f ∧ u.lif.receiver = .on ∧ u.lif.receiverSince = some 0 ∧
         (after (.unslottedReception (r f)) u).lif.startEcho = some ⟨f, true, some true⟩) ∧
      (∀ k c, (founder .inStep).lif.tx ≠ some (.start k c)) ∧
      Frame.start 1 0 ≠ f ∧ (s .listen false).lif.echo = none ∧ (s .listen false).cyc.position = .none ∧
      (after (.unslottedReception (r (.start 1 (p.check + 1)))) (s .listen false)).cyc.haltCause = .profileMismatch ∧
      (after (.unslottedReception (r f)) (s .listen false)).cyc.haltCause = .duplicateNumber ∧
      (after (.unslottedReception (r (.start 1 p.check))) (s .listen false)).cyc.position = .gap ∧
      (after (.unslottedReception (r f)) (s .leaving true)).cyc.haltCause = .duplicateNumber ∧
      StationState.hearsDuplicates .starting = false ∧
      (after (.unslottedReception (r (.start 1 p.check))) (at' (.dataFixed none) (onFour (inState .inStep)))).mgt.counters.get
        .damagedFrames = 1 ∧
      (let u := at' (.announce 0) (onFour (inState .inStep))
       let u := { u with cyc := { u.cyc with unslottedUntil := some (us 501) } }
       us 500 < us 501 ∧ (after (.unslottedReception (r (.empty ⟨1, 0, 9⟩))) u).cyc.lineLost =
         .running (r (.empty ⟨1, 0, 9⟩)).stop) := by decide +kernel

/-- Boundaries: the three positions that lead to a gap span, and each station state's own step. -/
theorem test_witness_CycleBoundary :
    let due := { at' .gap (inState .inStep) with
      cyc := { (at' .gap (inState .inStep)).cyc with boundaryDue := true, cycleStart := some 9 } }
    let last := at' (.dataFixed (some 63)) (inState .inStep)
    let s (x : StationState) (l : Option LoadOutcome) (j a o : Nat) : State :=
      { at' (.dataFixed none) (inState x) with cyc := { (at' (.dataFixed none) (inState x)).cyc with
          pendingLoad := l, joinCycle := j, joinAttempt := a, outOfStep := o } }
    nextGap due.cyc = some 9 ∧ us 3000 ≤ us 2000 + us 16 * (63 : Nat) ∧ nextGap last.cyc = some (us 3000) ∧
      (∀ x ∈ [StationState.joining, .outOfStep, .blind, .leaving],
        nextGap (s x none 0 0 0).cyc = some (us 3000) ∧ (s x none 0 0 0).cyc.state = x) ∧
      (s .joining none 6 0 0).cyc.joinCycle + 1 < 8 ∧ (s .joining (some .notMember) 7 2 0).cyc.joinCycle + 1 = 8 ∧
      (s .joining (some .notMember) 7 2 0).cyc.joinAttempt + 1 < 4 ∧
      (s .joining none 7 3 0).cyc.joinAttempt + 1 = 4 ∧ (s .outOfStep none 0 0 14).cyc.outOfStep + 1 < 16 ∧
      (s .outOfStep none 0 0 15).cyc.outOfStep + 1 = 16 ∧
      (∀ x ∈ [StationState.joining, .outOfStep, .blind],
        nextGap (s x (some .member) 7 3 15).cyc = some (us 3000) ∧ (s x (some .member) 7 3 15).cyc.pendingLoad = some .member) ∧
      (∀ x ∈ [StationState.outOfStep, .blind], (s x (some .notMember) 0 0 15).cyc.pendingLoad = some .notMember) ∧
      (let u := s .joining none 7 2 0
       let u := { u with cyc := { u.cyc with leavePending := true } }
       u.cyc.leavePending = true ∧ (after .cycleBoundary u).cyc.state = .stopped) := by decide +kernel

/-- Candidate bids in station order, in two groups of one size: the reference is the lowest candidate's digest. -/
theorem test_witness_ReferenceDigest :
    let b (k : Station) (h : Half) : ValidBid := ⟨k, 1, .none, h, Four.all 0⟩
    let cs := [b 1 0xB, b 2 0xA, b 4 0xA, b 6 0xB]
    cs.Pairwise (fun x y => x.station.val < y.station.val) ∧ referenceDigest cs = some 0xB ∧ referenceDigest [] = none := by
  decide

/-- A bid table with one Valid record, in slot 0, keeps its law. -/
def oneBid : BidTable :=
  ⟨⟨.valid ⟨0, 1, .none, 0xD, ⟨1, 0, 0, 64⟩⟩, true, some true, false⟩ :: List.replicate 15 BidRecord.clear, false⟩

theorem test_oneBid_law : BidTableLaw (lineOf 4) oneBid := by
  refine ⟨by decide, fun k b h => ?_⟩
  rcases k with _ | k
  · simp only [BidTable.record, oneBid, List.getD_cons_zero, BidStatus.valid.injEq] at h
    subst h
    decide
  · have hk : (oneBid.record (k + 1)).status = .unheard := by
      simp only [BidTable.record, oneBid, List.getD_cons_succ]
      rw [List.getD_eq_getElem?_getD, List.getElem?_replicate]
      split <;> rfl
    rw [hk] at h
    exact absurd h (by simp)

theorem test_witness_AllocationLaws :
    let d : Sched := Sched.mapRows (fun k _ => ⟨k.val < 4, 0, 0, 0, 0⟩) Sched.empty
    let o := announcement 0 oneBid d
    8 ≤ (lineOf 4).budget ∧ o.eligible.Pairwise (fun x y => x.val < y.val) ∧ o.eligible = [0] ∧
      ([2, 5, 9] : List Station).Pairwise (fun s t => s.val < t.val) := by decide +kernel

/-- The end of the announcement phase: deciders that are eligible and that are not, a station that does not decide, and
LISTEN with and without the conditions of R31. -/
theorem test_witness_EndOfAnnouncement :
    let d : Sched := Sched.mapRows (fun k _ => ⟨k.val < 4, 0, 0, 0, 0⟩) Sched.empty
    let quiet : BidRecord := ⟨.silent, false, none, false⟩
    let table : BidTable := ⟨oneBid.records.set 1 quiet |>.set 2 quiet |>.set 3 quiet, false⟩
    let s (x : StationState) (t : BidTable) (d : Sched) : State :=
      let u := at' (.announce 3) (onFour (inState x))
      { u with cyc := { u.cyc with bids := t }, ssu := ⟨d, d.digest, none⟩ }
    (∀ x ∈ [StationState.inStep, .outOfStep],
      decides (s x table d) = true ∧ (announcement 0 table d).ownEligible = true ∧
        decides (s x table Sched.empty) = true ∧ (announcement 0 table Sched.empty).ownEligible = false) ∧
      decides (s .blind table d) = false ∧ (s .blind table d).cyc.state ≠ .listen ∧ (s .listen table d).cyc.state = .listen ∧
      ((s .inStep oneBid d).cyc.state.inactive = false ∧ 3 + 1 = (s .inStep oneBid d).mgt.profile.lineSize ∧
        ((s .inStep oneBid d).cyc.bids.record 3).status = .unheard ∧ (s .inStep oneBid d).lif.echo = none) := by
  decide +kernel

/-- The rows a commit forms: each clause's record and membership, the silence limit met and not met. -/
theorem test_witness_CommitUpdates :
    let v (g : BidFlag) : BidStatus := .valid ⟨0, 1, g, 0, Four.all 0⟩
    let t (x : BidStatus) : BidTable := ⟨⟨x, false, none, false⟩ :: List.replicate 15 BidRecord.clear, false⟩
    let d (m : Bool) (k : Nat) : Sched := Sched.mapRows (fun _ _ => ⟨m, k, 0, 0, 0⟩) Sched.empty
    (((t .silent).record 0).status = .silent ∧ ((d true 2).row 0).member = true ∧ 3 ≤ ((d true 2).row 0).silence + 1 ∧
        ((d true 1).row 0).silence + 1 < 3 ∧ ((d false 0).row 0).member = false) ∧
      ∀ g ∈ [BidFlag.none, .resync, .joining, .leaving],
        ((t (v g)).record 0).status = .valid ⟨0, 1, g, 0, Four.all 0⟩ := by decide +kernel

theorem test_witness_DataPhaseFixed :
    let s (g : Option GrantList) : State := { inState .inStep with alc := ⟨g⟩ }
    (s (some ⟨[], false, 0⟩)).alc.grants = some ⟨[], false, 0⟩ ∧
      (s (some ⟨[⟨0, 0, 1, 0⟩], false, 1⟩)).alc.grants = some ⟨[⟨0, 0, 1, 0⟩], false, 1⟩ ∧ (s none).alc.grants = none ∧
      (s none).cyc.bids.damage = false ∧
      (∀ st : Station, ((s none).cyc.bids.record st.val).status = .unheard) ∧
      ({ s none with cyc := { Cyc.reset with bids := ⟨[], true⟩ } } : State).cyc.bids.damage ≠ false := by
  decide +kernel

/-- A TABLE composed from a schedule state passes the judgment of R72 where the state lies within its bounds. -/
theorem test_composed_table_passes (p : Profile) (d : Sched) (src : Station)
    (h1 : withinBounds p (Sched.ofBytes d.serialise) = true)
    (h2 : ((Sched.ofBytes d.serialise).row src).member = true) :
    tablePasses p ⟨src, p.check, d.serialise, d.digest, 0⟩ = true := by
  simp [tablePasses, Sched.digest_eq, h1, h2]

/-- A schedule state with every value at its bound: members 0 to 3 of a line of four. -/
def fullSched : Sched := ⟨40, 15, List.replicate 4 ⟨true, 2, 32, 16, 8⟩ ++ List.replicate 12 SchedRow.clear⟩

/-- A TABLE that passes the judgment of R72, one that fails it, and the states that judge it. -/
theorem test_witness_TableTaken :
    tablePasses (lineOf 4) ⟨3, (lineOf 4).check, fullSched.serialise, fullSched.digest, 0⟩ = true ∧
      tablePasses (lineOf 4) ⟨3, (lineOf 4).check + 1, fullSched.serialise, fullSched.digest, 0⟩ = false ∧
      (∀ x ∈ [StationState.joining, .blind, .outOfStep], x.loads = true) ∧ StationState.loads .inStep = false := by
  refine ⟨test_composed_table_passes _ _ _ (by decide +kernel) (by decide +kernel), ?_, by decide, rfl⟩
  have h : ((lineOf 4).check + 1 == (lineOf 4).check) = false := by decide +kernel
  simp only [tablePasses, h, Bool.false_and]

/-- The first and the last data slot granted to this station, and a slot granted to another. -/
theorem test_witness_OwnDataSlots :
    let g : GrantList := ⟨[⟨0, 1, 2, 4⟩, ⟨1, 1, 1, 6⟩], true, 7⟩
    let s (i : Nat) : State := { at' (.dataFixed (some i)) (onFour (inState .inStep)) with alc := ⟨some g⟩ }
    let cover (i : Nat) := g.entries.find? (fun n => decide (n.first ≤ i) && decide (i < n.first + n.count))
    (∀ i ∈ [4, 5], (s i).alc.grants = some g ∧ (s i).cyc.state = .inStep ∧ (s i).cyc.position = .dataFixed (some i) ∧
      us 2000 + us 16 * (i : Nat) < us 3000 ∧ cover i = some ⟨0, 1, 2, 4⟩ ∧ ownNumber (s i) = 0 ∧
        (s i).lif.tx = none ∧ (s i).lif.echo = none) ∧
      (∀ e ∈ g.entries, e.station = ownNumber (s 6) → ¬(e.first ≤ 6 ∧ 6 < e.first + e.count)) ∧
      (s 0).cyc.position = .dataFixed (some 0) ∧
      ({ s 0 with cyc := { (s 0).cyc with layout := .placed } } : State).cyc.layout = .placed ∧
      (after .frameRequest (s 4)).lif.tx ≠ none ∧ (after .frameRequest (s 4)).lif.echo ≠ none := by
  decide +kernel

/-- Message ends and payload words: an Admitted message of 10 bytes, its first and its last word. -/
theorem test_witness_MessageTaken :
    let d : Descriptor := ⟨1, .all, 7, 10, true, 1, none, 0, [blankBuffer], .arriving⟩
    let s (n : Nat) : State := { inState .inStep with
      txq := { Txq.reset with queues := Four.all [] |>.set 1 ([] ++ [d]), ingress := .admitted 1 (4 * n) } }
    ({ inState .inStep with txq := { Txq.reset with ingress := .discarding .noRoom 1 7 } } : State).txq.ingress =
        .discarding .noRoom 1 7 ∧
      (∀ n ∈ [0, 7], (s n).txq.ingress = .admitted 1 (4 * n) ∧ (s n).txq.queues.get 1 = [] ++ [d] ∧
        4 * n + 4 ≤ 32 * d.bufs.length) ∧
      1 ≤ d.len ∧ d.bufs.length = segmentCount d.len ∧ (∀ b ∈ d.bufs, b.length = 32) := by decide +kernel

/-- Headers: each check of R101 is the first that fails, at the edges of the ranges. -/
theorem test_witness_admission :
    let s := onFour (inState .inStep)
    let h (t : Destination) : FirstHead := ⟨1, t, true⟩
    admissionCheck (h .all) 1 (onFour (inState .stopped)) = some .notActive ∧
      admissionCheck (h (.station 0)) 0 { s with txq := { s.txq with
        queues := s.txq.queues.set 1 (List.replicate 16 (newDescriptor (h .all) 0 1)) } } = some .queueFull ∧
      admissionCheck (h (.station 0)) 0 s = some .badDestination ∧ admissionCheck (h (.station 4)) 0 s = some .badDestination ∧
      admissionCheck (h (.reserved 1)) 0 s = some .badDestination ∧ admissionCheck (h (.station 3)) 0 s = some .malformed ∧
      admissionCheck (h (.group 7)) 1025 s = some .malformed ∧
      admissionCheck (h .all) 1024 { s with txq := { s.txq with free := 31 } } = some .noRoom ∧
      admissionCheck (h .all) 1024 { s with txq := { s.txq with free := 32 } } = none := by decide +kernel

/-- Contexts: one open, with a segment that continues it, one that does not, and a full table. -/
theorem test_witness_SegmentReceived :
    let c : Context := ⟨1, 3, 10, 5, .station 0, 100, 1, List.replicate 4 blankBuffer, 0⟩
    let s := { onFour (inState .inStep) with ras := ⟨508, [c]⟩ }
    let f (i : BitVec 5) (first last : Bool) : SegmentFrame := ⟨1, 3, first, last, .station 0, 10, 5, 100, i, 0, blankBuffer⟩
    findContext 1 3 s = some c ∧ findContext 2 3 s = none ∧ (1 : Station) ≠ ownNumber s ∧
      continues c (f 1 false false) = true ∧ continues c (f 2 false false) = false ∧ forThisStation s .all = true ∧
      forThisStation s (.group 2) = false ∧ forThisStation s (.reserved 0) = false ∧ c.next ≤ c.bufs.length ∧
      c.since + us 50000 ≤ us 50000 ∧ (List.replicate 32 c).length = 32 ∧
      ({ s with ras := ⟨3, []⟩ } : State).ras.free < 4 := by decide +kernel

theorem test_witness_SteeringAndNotices :
    let s := inState .inStep
    let e : SteerEntry := ⟨true, 4, 4, 16, 0, 0⟩
    let q : SteerEntry := ⟨true, 3, 0, 1, 5, 255⟩
    (∀ x ∈ s.mgt.settings.steer, x.matches aRecord.cls aRecord.src aRecord.tag = false) ∧
      e.matches aRecord.cls aRecord.src aRecord.tag = true ∧ e.action.toNat = 4 ∧
      q.matches aRecord.cls aRecord.src aRecord.tag = true ∧ q.action.toNat = (3 : Sys2Proof.Class).val ∧
      SteerEntry.matches ⟨true, 5, 4, 16, 0, 0⟩ 0 1 5 = false ∧ s.dlv.notices.length < 16 ∧
      (List.replicate 16 aNotice).length = 16 ∧ s.dlv.lost ≤ 255 := by decide +kernel

theorem test_witness_ArbiterChooses :
    let s (m : BitVec 2) (d : Dlv) : State := { inState .inStep with
      dlv := d, mgt := { Mgt.reset with settings := { LocalSettings.reset with mode := m } } }
    let d (p : Sys2Proof.Class) (r : Nat) : Dlv := ⟨⟨[], [], [aRecord], []⟩, [], 0, p, r⟩
    (s 0 (d 0 0)).trb.framer = .idle ∧ (s 0 (d 0 0)).mgt.settings.mode ≠ 1 ∧
      (s 0 (d 0 0)).dlv.queues.get 2 = aRecord :: [] ∧
      (∀ x : Sys2Proof.Class, x < 2 → (s 0 (d 0 0)).dlv.queues.get x = []) ∧
      (s 1 (d 2 0)).dlv.run < ((s 1 (d 2 0)).mgt.settings.weights.get 2).toNat ∧
      ((s 1 (d 2 1)).mgt.settings.weights.get 2).toNat ≤ (s 1 (d 2 1)).dlv.run ∧
      (s 1 (d 2 1)).dlv.queues.get (2 + Fin.ofNat 4 4) = aRecord :: [] ∧
      (∀ j ∈ [1, 2, 3], (s 1 (d 2 1)).dlv.queues.get (2 + Fin.ofNat 4 j) = []) ∧
      (s 1 (d 0 0)).dlv.queues.get 0 = [] := by decide +kernel

theorem test_witness_round_trips :
    (List.replicate 32 (0 : Byte)).length = 32 ∧ (List.replicate 69 (0 : Byte)).length = 69 ∧
      frameOfBits (Frame.bits (.start 2 0x11)) = some (.start 2 0x11) ∧
      Sched.empty.rows.length = 16 ∧ Sched.empty.pointer ≤ 255 ∧
      (∀ r ∈ Sched.empty.rows, r.silence ≤ 255 ∧ r.d1 ≤ 255 ∧ r.d2 ≤ 255 ∧ r.d3 ≤ 255) := by
  decide +kernel

/-! ### A busy state that keeps every law -/

/-- A Queued and an Arriving message of class 1. -/
def queuedMessage : Descriptor := ⟨1, .station 1, 9, 40, true, 2, some 0, 0, [blankBuffer, blankBuffer], .queued⟩
def arrivingMessage : Descriptor := ⟨1, .all, 7, 10, true, 1, none, 0, [blankBuffer], .arriving⟩

/-- An IN_STEP station 0 of four, at its own granted data slot 0, with two messages, a context, a delivered record and
a queue of one command. -/
def busy (c : Instr) : State :=
  let d := foundingSched 0
  { at' (.dataFixed (some 0)) (onFour (inState .inStep)) with
    txq := ⟨253, ⟨[], [queuedMessage, arrivingMessage], [], []⟩, Four.all 0, .admitted 1 0⟩,
    trb := ⟨.payload 3 0, .emitting (.delivered aRecord) 0⟩,
    ras := ⟨508, [⟨1, 0, 4, 5, .all, 64, 1, [blankBuffer, blankBuffer], 0⟩]⟩,
    dlv := { Dlv.reset with queues := ⟨[aRecord], [], [], []⟩ },
    ssu := ⟨d, d.digest, none⟩, alc := ⟨some ⟨[⟨0, 1, 1, 0⟩], false, 1⟩⟩, pending := [c] }

theorem test_busy_pools (c : Instr) : TxPoolLaw (busy c) ∧ RxPoolLaw (busy c) ∧ CapacityLaw (busy c) := by
  refine ⟨by unfold TxPoolLaw; rfl, by unfold RxPoolLaw; rfl, ?_⟩
  unfold CapacityLaw
  refine ⟨fun q => ?_, ?_, fun q => ?_, ?_, ?_, rfl⟩
  · show ((⟨[], [queuedMessage, arrivingMessage], [], []⟩ : Four (List Descriptor)).get q).length ≤ 16
    revert q; decide
  · show (1 : Nat) ≤ 32; decide
  · show ((⟨[aRecord], [], [], []⟩ : Four (List DeliveredRecord)).get q).length ≤ 32
    revert q; decide
  · show (0 : Nat) ≤ 16; decide
  · show (0 : Nat) ≤ 255; decide

theorem test_busy_station (c : Instr) : ReceiverLaw (busy c) ∧ SessionLaw (busy c) ∧ ProfileLaw (busy c) := by
  refine ⟨⟨fun _ => rfl, fun _ => rfl⟩, fun h => absurd (show StationState.inactive .inStep = true from h) (by decide), fun _ => ?_⟩
  show joinValidation (lineOf 4) LocalSettings.reset = .none
  decide

theorem test_busy_schedule (c : Instr) : ScheduleLaw (busy c) := by
  refine ⟨?_, ?_, ?_, fun k b h => ?_⟩
  · show ScheduleBounds (lineOf 4) (foundingSched 0)
    unfold ScheduleBounds
    decide +kernel
  · have h : (busy c).ssu = ⟨foundingSched 0, (foundingSched 0).digest, none⟩ := rfl
    rw [h]
  · show BidTable.clear.records.length = 16
    decide
  · have hk : ((busy c).cyc.bids.record k).status = .unheard := by
      show (BidTable.record BidTable.clear k).status = .unheard
      simp only [BidTable.record, BidTable.clear]
      rw [List.getD_eq_getElem?_getD, List.getElem?_replicate]
      split <;> rfl
    rw [hk] at h
    exact absurd h (by simp)

theorem test_busy_queues (c : Instr) : ClassQueueLaw (busy c) := by
  refine ⟨fun q => ?_, ⟨fun q hq => ?_, arrivingMessage, rfl, rfl, .inr ⟨3, 0, rfl, rfl, rfl⟩⟩, fun e n h => ?_⟩
  · show QueueLaw q ((⟨[], [queuedMessage, arrivingMessage], [], []⟩ : Four (List Descriptor)).get q)
    match q with
    | 0 => exact ⟨by simp [Four.get], by simp [Four.get], by simp [Four.get]⟩
    | 1 =>
      refine ⟨?_, ?_, ?_⟩ <;> simp [Four.get, queuedMessage, arrivingMessage, Descriptor.lawful, segmentCount]
    | 2 => exact ⟨by simp [Four.get], by simp [Four.get], by simp [Four.get]⟩
    | 3 => exact ⟨by simp [Four.get], by simp [Four.get], by simp [Four.get]⟩
  · show noArriving ((⟨[], [queuedMessage, arrivingMessage], [], []⟩ : Four (List Descriptor)).get q)
    match q with
    | 0 => simp [noArriving, Four.get]
    | 1 => exact absurd rfl hq
    | 2 => simp [noArriving, Four.get]
    | 3 => simp [noArriving, Four.get]
  · have : Parser.payload 3 0 = .payload e n := h
    cases this
    decide

theorem test_busy_contexts (c : Instr) : ContextLaw (busy c) := by
  refine ⟨by simp [busy], ?_⟩
  show ∀ x ∈ [(⟨1, 0, 4, 5, .all, 64, 1, [blankBuffer, blankBuffer], 0⟩ : Context)], _
  simp [segmentCount, ownNumber, busy, at', onFour, inState, State.reset, Mgt.reset, LocalSettings.reset]

/-- From the busy state each of three commands begins its frame, or leads to a next state. -/
theorem test_witness_busy_steps :
    (after .frameRequest (busy .leave)).lif.tx.isSome = true ∧ (busy .leave).lif.tx = none ∧
      (busy .leave).pending = .leave :: [] := by decide +kernel

/-- The busy state steps to a next state, and its class queue 1 is one message and its Arriving tail. -/
theorem test_witness_StepKeepsLaws :
    (∃ t, step (busy .leave) = .next t) ∧ (busy .leave).txq.ingress = .admitted 1 0 ∧
      (busy .leave).txq.queues.get 1 = [queuedMessage] ++ [arrivingMessage] := ⟨⟨_, rfl⟩, rfl, rfl⟩

/-- The laws of the queues with nothing on ingress, and with a refused message on ingress. -/
theorem test_witness_SessionEnd :
    ClassQueueLaw (inState .inStep) ∧
      ClassQueueLaw { inState .inStep with
        txq := { Txq.reset with ingress := .discarding .noRoom 1 7 }, trb := ⟨.overrun, .idle⟩ } ∧
      (inState .inStep).cyc.state ≠ .halted ∧ (inState .inStep).cyc.state ≠ .stopped ∧
      TxPoolLaw (busy .leave) ∧ (busy .leave).trb.framer ≠ .idle ∧
      ∀ c ∈ (busy .leave).ras.contexts, c.next ≤ c.bufs.length := by
  have hq : ∀ q, (Four.all ([] : List Descriptor)).get q = [] := by decide
  refine ⟨⟨fun q => ?_, ⟨fun q => ?_, ?_, ?_⟩, ?_⟩, ⟨fun q => ?_, ⟨fun q => ?_, .inl rfl⟩, ?_⟩, by decide, by decide,
    (test_busy_pools _).1, by decide, by decide⟩
  · show QueueLaw q ((Four.all []).get q)
    rw [hq]; exact ⟨by simp, by simp, by simp⟩
  · show noArriving ((Four.all []).get q)
    rw [hq]; simp [noArriving]
  · show Parser.idle ≠ .overrun; decide
  · intro e n h; cases h
  · intro e n h; cases h
  · show QueueLaw q ((Four.all []).get q)
    rw [hq]; exact ⟨by simp, by simp, by simp⟩
  · show noArriving ((Four.all []).get q)
    rw [hq]; simp [noArriving]
  · intro e n h; cases h

/-- Each of the six kinds of frame begins from some state under its command; the queue laws hold in the last of them. -/
theorem test_witness_TransmissionLaw :
    let b := busy .leave
    let kind (s : State) : Option FrameKind := s.lif.tx.map Frame.kind
    let delayed := { inState .starting with cyc := { Cyc.reset with state := .starting, coldStart := .running 0 } }
    let source := { b with ssu := { b.ssu with tableOut := some aTable }, alc := ⟨some ⟨[], true, 4⟩⟩,
                           cyc := { b.cyc with layout := .placed } }
    let empty := { b with txq := Txq.reset }
    let aborting := { b with txq := { Txq.reset with
      queues := Four.all [] |>.set 1 [{ queuedMessage with bufs := [], st := .aborting }] } }
    kind (after (.coldStartDelayEnd 0) delayed) = some .start ∧
      kind (after .ownBid (at' (.announce 0) (onFour (inState .inStep)))) = some .bid ∧
      kind (after .tableSend source) = some .table ∧ kind (after .frameRequest empty) = some .empty ∧
      kind (after .frameRequest aborting) = some .abort ∧ kind (after .frameRequest b) = some .segment ∧
      b.lif.tx = none := by decide +kernel

/-- Every parser state, with IREADY high and low. -/
theorem test_witness_IngressWordTaken :
    let s (p : Parser) : State := { inState .inStep with trb := ⟨p, .idle⟩ }
    (∀ p ∈ [Parser.idle, .header ⟨1, .all, true⟩, .payload 3 1, .payload 3 2, .overrun, .stray 0, .skip],
      ireadyPin (s p) = true ∧ (s p).trb.parser = p) ∧ ireadyPin State.reset = false := by decide

/-- A first head word of each of the four destination kinds (11.2). -/
theorem test_head_destinations :
    [0x000B0012, 0x000B0112, 0x000B0212, (0x000B0312 : Word)].map (fun w => (firstHeadOf w).dest) =
        [.station 11, .group 3, .all, .reserved 11] ∧
      [0x000B0012, 0x000B0112, 0x000B0212, (0x000B0312 : Word)].map (fun w => w.extractLsb' 8 2) = [0, 1, 2, 3] := by
  decide

theorem test_witness_AbortReceived :
    let c : Context := ⟨1, 0, 4, 5, .all, 64, 1, [blankBuffer, blankBuffer], 0⟩
    let s := busy .leave
    (0 : Station) = ownNumber s ∧ (1 : Station) ≠ ownNumber s ∧ findContext 1 1 s = none ∧ findContext 1 0 s = some c ∧
      c.seq = 4 ∧ c.seq ≠ 5 ∧ aRecord.len ≤ 1024 ∧ (255 : Nat) ≤ 255 := by decide +kernel

/-- Accounts whose deficits stand at their cap, and a station outside the accounts. -/
theorem test_witness_passes :
    let a : Account := openAccount 2 ⟨1, 5, 4, 0⟩ ⟨true, 0, 32, 16, 8⟩
    (∀ x ∈ [a], ∀ c : Sys2Proof.Class, c ≠ 0 → x.deficit.get c ≤ 4 * Profile.reset.quantum c) ∧
      ∀ x ∈ [a], x.station ≠ 3 := by decide +kernel

end Sys2Proof.Tests
end

section
/-! SUPPORT. The state that a command leads to: one equation for each command. -/

namespace Sys2Proof.Machine

/-- The state that command `c` leads to; every command leads to one (`exec_eq_next`). -/
def nextState (c : Instr) (s : State) : State :=
  match exec c s with
  | .next t => t
  | .fault _ => s
  | .refused _ => s

theorem nextState_powerOn (s : State) : nextState .powerOn s =
    { State.reset with pins := { s.pins with resetPin := false }, freeIx := s.freeIx, pending := s.pending } := rfl

theorem nextState_resetPinAssert (s : State) : nextState .resetPinAssert s =
    { State.reset with
      pins := { s.pins with resetPin := true }, breakHeld := framerAfterReset s.trb.framer == .breakPending,
      trb := ⟨.skip, framerAfterReset s.trb.framer⟩, freeIx := s.freeIx, pending := s.pending } := rfl

theorem nextState_resetPinRelease (s : State) :
    nextState .resetPinRelease s = { s with pins := { s.pins with resetPin := false } } := rfl

theorem nextState_cleanUpComplete (s : State) : nextState .cleanUpComplete s =
    if s.pins.resetPin then s else { s with cleaning := false, breakHeld := false } := rfl

theorem nextState_join (t : Time) (s : State) :
    nextState (.join t) s = if s.pins.resetPin then s else joinCommand t (endRead s) := rfl

theorem nextState_leave (s : State) :
    nextState .leave s = if s.pins.resetPin then s else leaveCommand (endRead s) := rfl

theorem nextState_flush (c : Class) (s : State) :
    nextState (.flush c) s = if s.pins.resetPin then s else flushCommand c (endRead s) := rfl

theorem nextState_softReset (s : State) :
    nextState .softReset s = if s.pins.resetPin then s else softResetCommand s := rfl

theorem nextState_unknownCommand (code : BitVec 4) (s : State) : nextState (.unknownCommand code) s =
    if s.pins.resetPin then s else if code = 0 ∨ 5 ≤ code.toNat then refuseCommand (endRead s) else s := rfl

theorem nextState_registerWrite (t : Time) (addr : BitVec 7) (v : Half) (s : State) :
    nextState (.registerWrite t addr v) s = if s.pins.resetPin then s else writeRegister t addr v (endRead s) := rfl

theorem nextState_eventsRead (s : State) :
    nextState .eventsRead s = if s.pins.resetPin then s else completeEventsRead s := rfl

theorem nextState_counterRead (k : Counter) (s : State) :
    nextState (.counterRead k) s = if s.pins.resetPin then s else completeCounterRead k s := rfl

theorem nextState_readCapture (addr : BitVec 7) (s : State) :
    nextState (.readCapture addr) s = if s.pins.resetPin then s else captureRead addr s := rfl

theorem nextState_carrierDetect (t : Time) (level : Bool) (s : State) : nextState (.carrierDetect t level) s =
    if s.pins.cd = level then s else if level then carrierRises t s else carrierFalls t s := rfl

theorem nextState_listenTimerExpiry_of_due {t since : Time} {s : State} (hs : s.cyc.state = .listen)
    (hl : s.cyc.listenTimer = .running since) (hd : since + listenTimeout ≤ t) :
    nextState (.listenTimerExpiry t) s =
      { enterState .starting s with cyc := { (enterState .starting s).cyc with
          listenTimer := .stopped, coldStart := .running t } } := by
  simp only [nextState, exec, execListenTimerExpiry, hs, hl, hd, if_true]

theorem nextState_listenTimerExpiry_of_not_due {t : Time} {s : State}
    (h : s.cyc.state = .listen → ∀ since, s.cyc.listenTimer = .running since → ¬ since + listenTimeout ≤ t) :
    nextState (.listenTimerExpiry t) s = s := by
  simp only [nextState, exec, execListenTimerExpiry]
  split
  · rename_i u hu
    split at hu
    · rename_i since hs hl
      rw [if_neg (h hs since hl)] at hu
      cases hu; rfl
    · cases hu; rfl
  · rfl
  · rfl

theorem nextState_coldStartDelayEnd (t : Time) (s : State) : nextState (.coldStartDelayEnd t) s =
    if s.cyc.state = .starting && s.cyc.coldStart.reached (coldStartDelay (ownNumber s)) t then
      transmitStart (.start (ownNumber s) (ownCheck s)) { s with cyc := { s.cyc with coldStart := .stopped } }
    else s := rfl

theorem nextState_transmissionEnd_idle {t : Time} {s : State} (h : s.lif.tx = none) :
    nextState (.transmissionEnd t) s = s := by
  simp only [nextState, exec, execTransmissionEnd, h]

theorem nextState_transmissionEnd {t : Time} {s : State} {f : Frame} (h : s.lif.tx = some f) :
    nextState (.transmissionEnd t) s = afterTransmission t f { s with lif := { s.lif with tx := none } } := by
  simp only [nextState, exec, execTransmissionEnd, h]

theorem nextState_lineLostTimerExpiry (t : Time) (s : State) : nextState (.lineLostTimerExpiry t) s =
    if s.cyc.lineLost.reached lineLostTimeout t then lineLoss t (forgetEcho (loseTiming s)) else s := rfl

theorem nextState_ownBid (s : State) : nextState .ownBid s =
    if lineFree s && s.cyc.state.bids && bidPlaceable s then transmit (.bid (ownBidFrame s)) s else s := rfl

theorem nextState_slotReport (line : SpanLine) (s : State) :
    nextState (.slotReport line) s = slotReport line s := rfl

theorem nextState_unslottedReception (r : Reception) (s : State) :
    nextState (.unslottedReception r) s = unslottedReception r s := rfl

theorem nextState_cycleBoundary_idle {s : State} (h : nextGap s.cyc = none) : nextState .cycleBoundary s = s := by
  simp only [nextState, exec, execCycleBoundary, h]

theorem nextState_cycleBoundary {s : State} {start : Time} (h : nextGap s.cyc = some start) :
    nextState .cycleBoundary s = beginGap start s := by
  simp only [nextState, exec, execCycleBoundary, h]

theorem nextState_tableSend {s : State} {f : TableFrame} {g : GrantList} (hf : s.ssu.tableOut = some f)
    (hg : s.alc.grants = some g) : nextState .tableSend s =
      if lineFree s && s.cyc.state = .inStep && s.cyc.position == .dataFixed (some 0) && s.cyc.layout == .placed then
        transmit (.table { f with remain := natByte (g.total - 4) }) { s with ssu := { s.ssu with tableOut := none } }
      else s := by
  simp only [nextState, exec, execTableSend, hf, hg]

theorem nextState_tableSend_idle {s : State} (h : s.ssu.tableOut = none ∨ s.alc.grants = none) :
    nextState .tableSend s = s := by
  rcases h with h | h
  · simp only [nextState, exec, execTableSend, h]
  · cases hf : s.ssu.tableOut <;> simp only [nextState, exec, execTableSend, h, hf]

theorem nextState_frameRequest_idle {s : State} (h : ownGrantedSlot s = none) : nextState .frameRequest s = s := by
  simp only [nextState, exec, execFrameRequest, h]

theorem nextState_frameRequest {s : State} {e : Grant} {i total : Nat} (h : ownGrantedSlot s = some (e, i, total)) :
    nextState .frameRequest s =
      if lineFree s then transmit (frameFor e.cls (natByte (total - 1 - i)) s) (frameSupplied e.cls s) else s := by
  simp only [nextState, exec, execFrameRequest, h]

theorem nextState_staleTimerExpiry (t : Time) (src : Station) (cls : Class) (s : State) :
    nextState (.staleTimerExpiry t src cls) s = staleExpiry t src cls s := rfl

theorem nextState_ingressWord (kind : WordKind) (data : Word) (s : State) :
    nextState (.ingressWord kind data) s = if ireadyPin s then takeIngressWord kind data s else s := rfl

theorem nextState_egressWordTaken (s : State) :
    nextState .egressWordTaken s = if evalidPin s then takeEgressWord s else s := rfl

/-- No command faults or is refused: each leads to its next state. -/
theorem exec_eq_next (c : Instr) (s : State) : exec c s = .next (nextState c s) := by
  cases c with
  | listenTimerExpiry t =>
    simp only [nextState, exec, execListenTimerExpiry]
    (repeat' split) <;> simp_all
  | transmissionEnd t => cases h : s.lif.tx <;> simp only [nextState, exec, execTransmissionEnd, h]
  | cycleBoundary => cases h : nextGap s.cyc <;> simp only [nextState, exec, execCycleBoundary, h]
  | tableSend =>
    cases hf : s.ssu.tableOut <;> cases hg : s.alc.grants <;> simp only [nextState, exec, execTableSend, hf, hg]
  | frameRequest => cases h : ownGrantedSlot s <;> simp only [nextState, exec, execFrameRequest, h]
  | _ => rfl

theorem nextState_of_exec {c : Instr} {s t : State} (h : exec c s = .next t) : nextState c s = t := by
  rw [exec_eq_next] at h
  exact Host.Outcome.next.inj h

/-- A step idles, or takes the command that has waited longest. -/
theorem step_cases {s t : State} (h : step s = .next t) :
    t = s ∨ ∃ c rest, s.pending = c :: rest ∧ t = nextState c { s with pending := rest } := by
  unfold step at h
  split at h
  · exact .inl (Host.Outcome.next.inj h).symm
  · rename_i c rest hp
    exact .inr ⟨c, rest, hp, (nextState_of_exec h).symm⟩

end Sys2Proof.Machine
end

section
/-! SUPPORT. What a session is while it runs and once it has ended, and what each shared operation makes of it (R12, R45). -/

namespace Sys2Proof.Machine

/-- A session runs: the station is in none of CONFIG, STOPPED and HALTED, and its receiver is on (R12). -/
def SessionRuns (s : State) : Prop := s.cyc.state.inactive = false ∧ s.lif.receiver = .on

/-- No session runs: the receiver is not on, and everything a session holds is cleared (R12, R45). -/
def SessionOver (s : State) : Prop := s.cyc.state.inactive = true ∧ s.lif.receiver ≠ .on ∧ SessionLaw s

/-- The two laws of the station states together. -/
def StationLaw (s : State) : Prop := ReceiverLaw s ∧ SessionLaw s

theorem SessionRuns.law {s : State} (h : SessionRuns s) : StationLaw s :=
  ⟨⟨fun _ => h.1, fun _ => h.2⟩, fun hi => absurd (h.1.symm.trans hi) (by decide)⟩

theorem SessionOver.law {s : State} (h : SessionOver s) : StationLaw s :=
  ⟨⟨fun hr => absurd hr h.2.1, fun hi => absurd (h.1.symm.trans hi) (by decide)⟩, h.2.2⟩

/-- A session runs or is over. -/
theorem StationLaw.runs_or_over {s : State} (h : StationLaw s) : SessionRuns s ∨ SessionOver s := by
  cases hi : s.cyc.state.inactive with
  | false => exact .inl ⟨hi, h.1.mpr hi⟩
  | true => exact .inr ⟨hi, fun hr => absurd (hi.symm.trans (h.1.mp hr)) (by decide), h.2⟩

theorem StationLaw.runs {s : State} (h : StationLaw s) (hi : s.cyc.state.inactive = false) : SessionRuns s :=
  ⟨hi, h.1.mpr hi⟩

/-- A session goes on where the receiver stays on and the station state is another active one. -/
theorem SessionRuns.next {s t : State} (h : SessionRuns s) (hr : t.lif.receiver = s.lif.receiver)
    (ht : t.cyc.state = s.cyc.state ∨ t.cyc.state.inactive = false) : SessionRuns t := by
  refine ⟨?_, hr.trans h.2⟩
  rcases ht with ht | ht
  · rw [ht]; exact h.1
  · exact ht

/-! ### The end of a session -/

@[simp] theorem enterState_state (st : StationState) (s : State) : (enterState st s).cyc.state = st := by
  unfold enterState
  split
  · assumption
  · simp

@[simp] theorem endQueue_queues (c : Class) (s : State) :
    (endQueue c s).txq.queues = s.txq.queues.set c [] := by
  simp [endQueue]

/-- Every class queue is empty after TXQ's session end (R116). -/
@[simp] theorem txqSessionEnd_queues (s : State) : (txqSessionEnd s).txq.queues = Four.all [] := by
  simp [txqSessionEnd, Four.set, Four.all]

/-- The contexts aborted one after the other leave the table (R128). -/
theorem abortEach_contexts (w : AbortReason) (cs : List Context) (s : State) :
    (cs.foldl (fun s c => abortContext w c s) s).ras.contexts = cs.foldl List.erase s.ras.contexts := by
  induction cs generalizing s with
  | nil => rfl
  | cons c cs ih =>
    have hc : (abortContext w c s).ras.contexts = s.ras.contexts.erase c := by
      unfold abortContext
      dsimp only
      split <;> simp
    rw [List.foldl_cons, List.foldl_cons, ih, hc]

theorem foldl_erase_of_perm {α : Type} [BEq α] [LawfulBEq α] {as bs : List α} (h : as.Perm bs) :
    as.foldl List.erase bs = [] := by
  induction as generalizing bs with
  | nil => exact h.nil_eq.symm
  | cons a as ih => exact ih (by simpa using h.erase a)

/-- The reassembly table is empty after RAS's session end (R134). -/
@[simp] theorem rasSessionEnd_contexts (s : State) : (rasSessionEnd s).ras.contexts = [] := by
  unfold rasSessionEnd abortContexts
  rw [abortEach_contexts]
  exact foldl_erase_of_perm (pickOrder_perm _ _ _)

@[simp] theorem endQueues_queues (s : State) : (endQueues s).txq.queues = Four.all [] := by
  unfold endQueues
  (repeat' split) <;> simp

@[simp] theorem endQueues_contexts (s : State) : (endQueues s).ras.contexts = [] := by
  unfold endQueues
  split
  · rename_i h
    simpa using h
  · split <;> simp

theorem stopReceiver_startEcho (s : State) : (stopReceiver s).lif.startEcho = none := by
  unfold stopReceiver
  split <;> rfl

theorem stopReceiver_receiver (s : State) : (stopReceiver s).lif.receiver ≠ .on := by
  unfold stopReceiver
  split <;> simp

theorem endSession_law (s : State) : SessionLaw (endSession s) := by
  intro _
  unfold endSession
  simp [stopReceiver_startEcho, endCyc]

theorem endSession_over {s : State} (h : s.cyc.state.inactive = true) : SessionOver (endSession s) :=
  ⟨by simpa using h, stopReceiver_receiver _, endSession_law s⟩

@[simp] theorem enterStopped_state (s : State) : (enterStopped s).cyc.state = .stopped := by
  simp [enterStopped]

@[simp] theorem enterHalted_state (cause : HaltCause) (s : State) : (enterHalted cause s).cyc.state = .halted := by
  unfold enterHalted
  split
  · assumption
  · simp

theorem enterStopped_over (s : State) : SessionOver (enterStopped s) :=
  endSession_over (by simp [StationState.inactive])

theorem enterHalted_law {cause : HaltCause} {s : State} (h : StationLaw s) : StationLaw (enterHalted cause s) := by
  unfold enterHalted
  split
  · exact h
  · exact (endSession_over (by simp [StationState.inactive])).law

/-! ### Entries into the active states -/

theorem enableReceiver_receiver (t : Time) (l : Lif) : (enableReceiver t l).receiver = .on := by
  unfold enableReceiver
  split <;> simp_all

/-- LISTEN, or STOPPED in its place where leave-pending is set: either way the laws hold (R28). -/
theorem enterListen_law (t : Time) (s : State) : StationLaw (enterListen t s) := by
  unfold enterListen
  split
  · exact (enterStopped_over s).law
  · exact SessionRuns.law ⟨by simp [listenCyc, StationState.inactive], enableReceiver_receiver _ _⟩

@[simp] theorem enterInStep_state (s : State) : (enterInStep s).cyc.state = .inStep := by
  simp [enterInStep]

@[simp] theorem enterJoining_state (s : State) : (enterJoining s).cyc.state = .joining := by
  simp [enterJoining]

theorem stepLoss_law (t : Time) (s : State) : StationLaw (stepLoss t s) := enterListen_law _ _

end Sys2Proof.Machine
end

section
/-! SUPPORT. The operations of the line keep the laws of the station states (R12, R45). -/

namespace Sys2Proof.Machine

/-- The laws hold where the receiver of a running session stays on and the station state is another active one. -/
theorem SessionRuns.keeps {s t : State} (h : SessionRuns s) (hr : t.lif.receiver = s.lif.receiver)
    (ht : t.cyc.state = s.cyc.state ∨ t.cyc.state.inactive = false) : StationLaw t :=
  (h.next hr ht).law

/-- A running session whose station state becomes another active one still runs. -/
theorem SessionRuns.enterState {s : State} (h : SessionRuns s) {st : StationState} (hst : st.inactive = false) :
    SessionRuns (enterState st s) :=
  h.next (by simp) (.inr (by simpa using hst))

/-! ### The end of the announcement phase -/

theorem verdict_runs {o : Announcement} {s : State} (h : SessionRuns s) : SessionRuns (verdict o s) := by
  refine h.next (by simp) ?_
  unfold verdict
  dsimp only
  (repeat' split) <;> simp [StationState.inactive]

theorem endAnnouncement_runs {t : Time} {s : State} (h : SessionRuns s) : SessionRuns (endAnnouncement t s) := by
  have fixed {u : State} (hu : SessionRuns u) : SessionRuns (fixDataPhase t u) := hu.next (by simp) (.inl (by simp))
  unfold endAnnouncement
  apply fixed
  split
  · split
    · exact h.next (by simp) (.inr (by simp [StationState.inactive]))
    · exact h
  · split
    · exact verdict_runs h
    · exact h

/-! ### The cycle boundary -/

theorem joinCycleEnds_law {t : Time} {s : State} (h : SessionRuns s) :
    StationLaw (boundaryStep.joinCycleEnds t s) := by
  unfold boundaryStep.joinCycleEnds
  dsimp only
  split
  · split
    · exact enterHalted_law (h.keeps rfl (.inl rfl))
    · exact enterListen_law _ _
  · exact (h.keeps rfl (.inl rfl))

theorem boundaryStep_law {t : Time} {s : State} (h : SessionRuns s) : StationLaw (boundaryStep t s) := by
  have member : SessionRuns (boundaryStep.settleMember s) :=
    h.next (by simp) (.inr (by simp [boundaryStep.settleMember, StationState.inactive]))
  have notMember : SessionRuns (boundaryStep.settleNotMember s) :=
    h.next (by simp) (.inr (by simp [boundaryStep.settleNotMember, StationState.inactive]))
  unfold boundaryStep
  split
  · exact member.law
  · exact member.law
  · exact member.law
  · exact notMember.law
  · exact notMember.law
  · exact joinCycleEnds_law (h.next rfl (.inl rfl))
  · exact joinCycleEnds_law h
  · exact (h.keeps (by simp) (.inr (by simp [StationState.inactive])))
  · dsimp only
    split
    · exact stepLoss_law _ _
    · exact (h.keeps rfl (.inl rfl))
  · exact (enterStopped_over s).law
  all_goals exact h.law

theorem takeBoundary_law {t : Time} {s : State} (h : SessionRuns s) : StationLaw (takeBoundary t s) :=
  boundaryStep_law (h.next (by simp) (.inl (by simp)))

theorem beginGap_law {start : Time} {s : State} (h : SessionRuns s) : StationLaw (beginGap start s) :=
  takeBoundary_law (h.next rfl (.inl rfl))

/-! ### Bids and STARTs -/

theorem compareProfile_law {check : Byte} {s : State} (h : StationLaw s) : StationLaw (compareProfile check s) := by
  unfold compareProfile
  split
  · rename_i hl
    have hl : s.cyc.state = .listen := by simp_all
    split
    · exact ((h.runs (by simp [hl, StationState.inactive])).next rfl (.inl rfl)).law
    · exact enterHalted_law h
  · exact h

theorem checkDuplicate_law {st : Station} {own : Bool} {s : State} (h : StationLaw s) :
    StationLaw (checkDuplicate st own s) := by
  unfold checkDuplicate
  split
  · exact enterHalted_law h
  · exact h

/-- A station state that bids is an active one. -/
theorem StationState.inactive_of_bids {st : StationState} (h : st.bids = true) : st.inactive = false := by
  cases st <;> simp_all [StationState.bids, StationState.inactive]

theorem countEcho_law {passed : Bool} {s : State} (h : StationLaw s) : StationLaw (countEcho passed s) := by
  unfold countEcho
  split
  · rename_i hb
    have runs := h.runs (StationState.inactive_of_bids hb)
    split
    · exact (runs.keeps rfl (.inl rfl))
    · dsimp only
      split
      · exact enterHalted_law (runs.keeps rfl (.inl rfl))
      · exact (runs.keeps rfl (.inl rfl))
  · exact h

theorem leaveAfterBid_law {own : Option Frame} {s : State} (h : StationLaw s) : StationLaw (leaveAfterBid own s) := by
  unfold leaveAfterBid
  split
  · rename_i hb
    exact ((h.runs (StationState.inactive_of_bids (by simp_all))).enterState rfl).law
  · exact h

theorem goBlind_runs {s : State} (h : SessionRuns s) : SessionRuns (goBlind s) := by
  unfold goBlind
  split
  · exact (h.enterState (st := .blind) rfl).next (by simp) (.inl (by simp))
  · exact h

/-! ### Slot reports -/

@[simp] theorem handDataFrame_state (t : Time) (f : Frame) (s : State) :
    (handDataFrame t f s).cyc.state = s.cyc.state := by
  unfold handDataFrame
  split <;> simp

@[simp] theorem handDataFrame_lif (t : Time) (f : Frame) (s : State) : (handDataFrame t f s).lif = s.lif := by
  unfold handDataFrame
  split <;> simp

@[simp] theorem dataSlotReport_state (isOpen : Bool) (i : Nat) (d : Time) (line : SpanLine) (s : State) :
    (dataSlotReport isOpen i d line s).cyc.state = s.cyc.state := by
  unfold dataSlotReport
  dsimp only
  (repeat' split) <;> simp

@[simp] theorem dataSlotReport_receiver (isOpen : Bool) (i : Nat) (d : Time) (line : SpanLine) (s : State) :
    (dataSlotReport isOpen i d line s).lif.receiver = s.lif.receiver := by
  unfold dataSlotReport
  dsimp only
  (repeat' split) <;> simp


theorem endBidSlot_law {k : Nat} {t : Time} {s : State} (h : StationLaw s) : StationLaw (endBidSlot k t s) := by
  unfold endBidSlot
  split
  · exact h
  · rename_i hi
    have runs := h.runs (by simpa using hi)
    split
    · exact (runs.keeps rfl (.inl rfl))
    · exact (endAnnouncement_runs runs).law

theorem enterBidReport_law {k : Nat} {own : Option Frame} {passed : Bool} {c : SlotClass} {s : State}
    (h : SessionRuns s) : StationLaw (enterBidReport k own passed c s) := by
  unfold enterBidReport
  split
  · exact (h.keeps (by simp) (.inl (by simp)))
  · dsimp only
    refine leaveAfterBid_law (checkDuplicate_law (compareProfile_law ?_))
    have entered {f r} : SessionRuns (goBlind (enterBid k own.isSome f (refreshCycle k r s))) :=
      goBlind_runs (h.next (by simp) (.inl (by simp)))
    split
    · exact countEcho_law entered.law
    · exact entered.law
  · dsimp only
    apply leaveAfterBid_law
    have entered (r : BidRecord) : SessionRuns (countEvent .damagedFrames (enterRecord k r s)) :=
      h.next (by simp) (.inl (by simp))
    have blinded (r : BidRecord) : StationLaw
        (if isLeavingBid own then countEvent .damagedFrames (enterRecord k r s)
          else goBlind (countEvent .damagedFrames (enterRecord k r s))) := by
      split
      · exact (entered r).law
      · exact (goBlind_runs (entered r)).law
    split
    · exact countEcho_law (blinded _)
    · exact blinded _

theorem bidSlotReport_law {k : Nat} {a : Time} {line : SpanLine} {s : State} (h : SessionRuns s) :
    StationLaw (bidSlotReport k a line s) := by
  have dropped : SessionRuns (dropSlotEcho s) := h.next (by simp) (.inl (by simp))
  unfold bidSlotReport
  dsimp only
  apply endBidSlot_law
  split
  · exact enterBidReport_law dropped
  · exact dropped.law

theorem gapReport_runs {line : SpanLine} {s : State} (h : SessionRuns s) : SessionRuns (gapReport line s) :=
  h.next (by simp) (.inl (by simp))

theorem dataSlotReport_runs {isOpen : Bool} {i : Nat} {d : Time} {line : SpanLine} {s : State} (h : SessionRuns s) :
    SessionRuns (dataSlotReport isOpen i d line s) :=
  h.next (by simp) (.inl (by simp))

theorem slotReport_law {line : SpanLine} {s : State} (h : StationLaw s) : StationLaw (slotReport line s) := by
  unfold slotReport
  split
  · exact h
  · rename_i hi
    have runs := h.runs (by simpa using hi)
    split
    · split
      · exact h
      · exact (gapReport_runs runs).law
    · exact bidSlotReport_law runs
    · split
      · exact (dataSlotReport_runs runs).law
      · exact h
    · exact (dataSlotReport_runs runs).law
    · exact h

/-! ### Unslotted receptions -/

@[simp] theorem fixCycleByStart_state (e : Time) (s : State) :
    (fixCycleByStart e s).cyc.state = s.cyc.state := rfl

@[simp] theorem fixEndUnslotted_state (f : Frame) (r : Reception) (s : State) :
    (fixEndUnslotted f r s).cyc.state = s.cyc.state := by
  unfold fixEndUnslotted
  dsimp only
  split <;> simp


theorem beginCycleByBid_law {own : Bool} {f : BidFrame} {r : Reception} {s : State} (h : SessionRuns s) :
    StationLaw (beginCycleByBid own f r s) := by
  unfold beginCycleByBid
  extract_lets a cyc timed begun entered blinded counted
  have hbegun : StationLaw begun := by
    have htimed : SessionRuns timed := h.next rfl (.inl rfl)
    unfold begun
    split
    · exact htimed.keeps (by simp) (.inl (by simp))
    · exact takeBoundary_law htimed
  split
  · exact hbegun
  · rename_i hi
    have hblinded : SessionRuns blinded :=
      goBlind_runs ((hbegun.runs (by simpa using hi)).next (by simp [entered]) (.inl (by simp [entered])))
    have hcounted : StationLaw counted := by
      unfold counted
      split
      · exact countEcho_law hblinded.law
      · exact hblinded.law
    exact checkDuplicate_law (compareProfile_law hcounted)

theorem takeUnslotted_law {own : Bool} {f : Frame} {r : Reception} {s : State} (h : SessionRuns s) :
    StationLaw (takeUnslotted own f r s) := by
  have fixed (g : Frame) : SessionRuns (fixEndUnslotted g r s) := h.next (by simp) (.inl (by simp))
  cases f with
  | bid g => exact beginCycleByBid_law h
  | start st check =>
    unfold takeUnslotted
    dsimp only
    split
    · exact h.law
    · exact checkDuplicate_law (compareProfile_law (h.keeps (by simp) (.inl (by simp))))
  | segment g => exact (fixed (.segment g)).keeps (by simp [takeUnslotted]) (.inl (by simp [takeUnslotted]))
  | abort g => exact (fixed (.abort g)).keeps (by simp [takeUnslotted]) (.inl (by simp [takeUnslotted]))
  | empty g => exact (fixed (.empty g)).law
  | table g => exact (fixed (.table g)).keeps (by simp [takeUnslotted]) (.inl (by simp [takeUnslotted]))

theorem startEchoFailed_law (t : Time) (s : State) : StationLaw (startEchoFailed t s) := enterListen_law _ _

theorem judgeStartEcho_law {e : EchoWatch} {f : Option Frame} {r : Reception} {s : State} (h : SessionRuns s) :
    StationLaw (judgeStartEcho e f r s) := by
  unfold judgeStartEcho
  extract_lets passed counted lif judged
  have hcounted : SessionRuns counted := by
    unfold counted
    split
    · exact h.next (by simp) (.inl (by simp))
    · exact h
  split
  · exact hcounted.keeps rfl (.inl rfl)
  · split
    · split
      · exact hcounted.keeps rfl (.inl rfl)
      · exact hcounted.keeps rfl (.inl rfl)
    · exact startEchoFailed_law _ _

theorem takeReception_law {own f : Option Frame} {r : Reception} {s : State} (h : SessionRuns s) :
    StationLaw (takeReception own f r s) := by
  unfold takeReception
  split
  · exact (h.keeps (by simp) (.inl (by simp)))
  · exact takeUnslotted_law h

theorem unslottedReception_runs {r : Reception} {s : State} (h : SessionRuns s) :
    StationLaw (unslottedReception r s) := by
  have hl : s.lif.receiver = .on := h.2
  unfold unslottedReception
  simp only [hl]
  split
  · exact h.law
  · split
    · exact judgeStartEcho_law h
    · split
      · split
        · exact takeReception_law (h.next (by simp) (.inl (by simp)))
        · exact takeReception_law h
      · exact h.law

end Sys2Proof.Machine
end

section
/-! SUPPORT. The commands keep the laws of the station states and the validated profile (R12, R45, R166, R167). -/

namespace Sys2Proof.Machine

/-! ### What a completed write can do -/

/-- JOIN, by its own command or by a write to COMMAND (R168). -/
def isJoin : Instr → Bool
  | .join _ => true
  | .registerWrite _ addr value => addr == 0 && (value.extractLsb' 0 4).toNat == 1
  | _ => false

/-- A completed write is a command, a refusal, the event mask, a setting stored in CONFIG, or nothing (R165, R166,
R177). -/
theorem writeRegister_cases (t : Time) (addr : BitVec 7) (v : Half) (s : State) :
    (isJoin (.registerWrite t addr v) = true ∧ writeRegister t addr v s = joinCommand t s) ∨
    writeRegister t addr v s = leaveCommand s ∨
    (∃ c, writeRegister t addr v s = flushCommand c s) ∨
    (isReset (.registerWrite t addr v) = true ∧ writeRegister t addr v s = softResetCommand s) ∨
    writeRegister t addr v s = refuseCommand s ∨
    (addr = 0x02 ∧ writeRegister t addr v s = { s with mgt := { s.mgt with mask := EventFlags.ofHalf v } }) ∨
    (isSettingAddr addr.toNat = true ∧ s.cyc.state = .config ∧
      writeRegister t addr v s = { s with mgt := { s.mgt with
        profile := writeProfile addr.toNat v s.mgt.profile,
        settings := writeLocal addr.toNat v s.mgt.settings } }) ∨
    writeRegister t addr v s = s := by
  by_cases h0 : addr = 0x00
  · simp only [writeRegister, h0, if_true, commandWrite]
    split
    · rename_i h1
      exact .inl ⟨by simpa [isJoin] using h1, rfl⟩
    · exact .inr (.inl rfl)
    · exact .inr (.inr (.inl ⟨_, rfl⟩))
    · rename_i h4
      exact .inr (.inr (.inr (.inl ⟨by simpa [isReset] using h4, rfl⟩)))
    · exact .inr (.inr (.inr (.inr (.inl rfl))))
  · by_cases h2 : addr = 0x02
    · exact .inr (.inr (.inr (.inr (.inr (.inl ⟨h2, by simp [writeRegister, h2]⟩)))))
    · by_cases hset : isSettingAddr addr.toNat = true
      · by_cases hc : s.cyc.state = .config
        · exact .inr (.inr (.inr (.inr (.inr (.inr (.inl ⟨hset, hc, by
            simp only [writeRegister, h0, h2, hset, hc, if_true, if_false]⟩))))))
        · exact .inr (.inr (.inr (.inr (.inl (by simp only [writeRegister, h0, h2, hset, hc, if_true, if_false])))))
      · exact .inr (.inr (.inr (.inr (.inr (.inr (.inr (by
          simp only [writeRegister, h0, h2, hset, if_false, Bool.false_eq_true])))))))

/-! ### Commands while no session runs -/

/-- A session stays over where a command leaves CYC, the receiver's rest, SSU and ALC, and the tables stay empty. -/
theorem SessionOver.next {s t : State} (h : SessionOver s) (hcyc : t.cyc = s.cyc) (hr : t.lif.receiver ≠ .on)
    (he : t.lif.startEcho = none) (hq : ∀ c, t.txq.queues.get c = []) (hc : t.ras.contexts = [])
    (hssu : t.ssu = s.ssu) (halc : t.alc = s.alc) : SessionOver t := by
  obtain ⟨hi, -, hlaw⟩ := h
  obtain ⟨-, -, hsched, htable, hgrants, hcyc1, hcyc2, hcyc3, hcyc4, hcyc5, hcyc6, hcyc7, hcyc8, hcyc9, -, hrest⟩ := hlaw hi
  refine ⟨by rw [hcyc]; exact hi, hr, fun _ => ?_⟩
  rw [hcyc, hssu, halc]
  exact ⟨hq, hc, hsched, htable, hgrants, hcyc1, hcyc2, hcyc3, hcyc4, hcyc5, hcyc6, hcyc7, hcyc8, hcyc9, he, hrest⟩

namespace SessionOver

variable {s : State} (h : SessionOver s)
include h

theorem queues (c : Class) : s.txq.queues.get c = [] := (h.2.2 h.1).1 c
theorem contexts : s.ras.contexts = [] := (h.2.2 h.1).2.1
theorem startEcho : s.lif.startEcho = none := by
  obtain ⟨-, -, -, -, -, -, -, -, -, -, -, -, -, -, he, -⟩ := h.2.2 h.1
  exact he
theorem tableOut : s.ssu.tableOut = none := by
  obtain ⟨-, -, -, ht, -⟩ := h.2.2 h.1
  exact ht
theorem grants : s.alc.grants = none := by
  obtain ⟨-, -, -, -, hg, -⟩ := h.2.2 h.1
  exact hg
theorem position : s.cyc.position = .none := by
  obtain ⟨-, -, -, -, -, -, hp, -⟩ := h.2.2 h.1
  exact hp
theorem timers : s.cyc.listenTimer = .stopped ∧ s.cyc.lineLost = .stopped := by
  obtain ⟨-, -, -, -, -, -, -, -, -, -, -, -, -, -, -, hl, hx, -⟩ := h.2.2 h.1
  exact ⟨hl, hx⟩

/-- A session stays over where everything that it speaks of stays as it is. -/
theorem of_eq {t : State} (hcyc : t.cyc = s.cyc) (hlif : t.lif.receiver = s.lif.receiver)
    (he : t.lif.startEcho = s.lif.startEcho) (hq : t.txq.queues = s.txq.queues)
    (hc : t.ras.contexts = s.ras.contexts) (hssu : t.ssu = s.ssu) (halc : t.alc = s.alc) : SessionOver t :=
  h.next hcyc (by rw [hlif]; exact h.2.1) (he.trans h.startEcho) (fun c => by rw [hq]; exact h.queues c)
    (hc.trans h.contexts) hssu halc

theorem not_state {st : StationState} (hst : st.inactive = false) : s.cyc.state ≠ st :=
  fun hs => absurd (h.1.symm.trans (by rw [hs, hst])) (by decide)

end SessionOver

theorem Four.get_set_eq {α : Type} {f : Four α} {a : α} (h : ∀ c, f.get c = a) (c d : Class) : (f.set c a).get d = a := by
  by_cases hd : d = c
  · rw [hd, Four.get_set_self]
  · rw [Four.get_set_of_ne f a hd, h d]

theorem leaveCommand_over {s : State} (h : SessionOver s) : SessionOver (leaveCommand s) := by
  have refused : SessionOver (refuseCommand s) := h.of_eq rfl rfl rfl rfl rfl rfl rfl
  unfold leaveCommand
  split <;> first
    | exact refused
    | (rename_i hs; exact absurd hs (h.not_state rfl))

/-- FLUSH touches TXQ and the notices alone (R114). -/
@[simp] theorem flushCommand_blocks (c : Class) (s : State) :
    (flushCommand c s).lif = s.lif ∧ (flushCommand c s).cyc = s.cyc ∧ (flushCommand c s).ssu = s.ssu ∧
    (flushCommand c s).alc = s.alc ∧ (flushCommand c s).ras = s.ras := by
  unfold flushCommand refuseCommand
  split <;> simp

theorem flushCommand_over {c : Class} {s : State} (h : SessionOver s) : SessionOver (flushCommand c s) := by
  unfold flushCommand
  split
  · exact h.of_eq rfl rfl rfl rfl rfl rfl rfl
  · refine h.next (by simp) (by simpa using h.2.1) (by simpa using h.startEcho) (fun d => ?_) (by simpa using h.contexts)
      (by simp) (by simp)
    simp only [flushQueue, h.queues c, List.filterMap_nil, takeNotices, List.foldl_nil]
    exact Four.get_set_eq h.queues c d

/-! ### Ingress words while no session runs -/

/-- No message is taken while no session runs (R101). -/
theorem headerTaken_over {f : FirstHead} {tag : Byte} {len : Nat} {s : State} (h : SessionOver s) :
    SessionOver (headerTaken f tag len s) := by
  simp only [headerTaken, admissionCheck, h.1, if_true]
  exact h.of_eq rfl rfl rfl rfl rfl rfl rfl

theorem payloadTaken_over {w : Word} {s : State} (h : SessionOver s) : SessionOver (payloadTaken w s) := by
  unfold payloadTaken
  split
  · exact h
  · exact h
  · rename_i cls written hi
    refine h.next rfl h.2.1 h.startEcho (fun d => ?_) h.contexts rfl rfl
    simp only [h.queues cls, mapLast]
    exact Four.get_set_eq h.queues cls d

theorem raiseRefused_over {cause : RefusalCause} {cls : Class} {tag : Byte} {s : State} (h : SessionOver s) :
    SessionOver (raiseRefused cause cls tag s) :=
  h.of_eq (by simp) (by simp) (by simp) (by simp) (by simp) (by simp) (by simp)

theorem messageEnd_over {e : MessageEnd} {s : State} (h : SessionOver s) : SessionOver (messageEnd e s) := by
  have dropped (cause : RefusalCause) (cls : Class) : SessionOver (dropMessage cause cls s) := by
    simp only [dropMessage, h.queues cls, List.getLast?_nil]
    exact h.of_eq rfl rfl rfl rfl rfl rfl rfl
  unfold messageEnd
  split
  · exact h
  · exact raiseRefused_over (h.of_eq rfl rfl rfl rfl rfl rfl rfl)
  · rename_i cls written hi
    split
    · refine h.next rfl h.2.1 h.startEcho (fun d => ?_) h.contexts rfl rfl
      simp only [finishMessage, h.queues cls, mapLast]
      exact Four.get_set_eq h.queues cls d
    · exact dropped _ _
    · exact dropped _ _

theorem setParser_over {p : Parser} {s : State} (h : SessionOver s) : SessionOver (setParser p s) :=
  h.of_eq rfl rfl rfl rfl rfl rfl rfl

theorem takeIngressWord_over {kind : WordKind} {w : Word} {s : State} (h : SessionOver s) :
    SessionOver (takeIngressWord kind w s) := by
  unfold takeIngressWord takeHead takeBody takeTail takeBreak
  split <;> split <;> (try split) <;> first
    | exact h
    | exact setParser_over h
    | exact raiseRefused_over h
    | exact setParser_over (headerTaken_over h)
    | exact setParser_over (payloadTaken_over h)
    | exact setParser_over (messageEnd_over h)
    | exact setParser_over (raiseRefused_over h)
    | exact setParser_over (messageEnd_over (payloadTaken_over h))

/-! ### The line while no session runs -/

theorem switchReceiverOff_over {s : State} (h : SessionOver s) : SessionOver (switchReceiverOff s) :=
  h.next rfl (by simp) rfl h.queues h.contexts rfl rfl

theorem finishEcho_over {f : Option Frame} {s : State} (h : SessionOver s) : SessionOver (finishEcho f s) := by
  unfold finishEcho
  extract_lets counted
  have hcounted : SessionOver counted := by
    unfold counted
    split
    · exact h.of_eq rfl rfl rfl rfl rfl rfl rfl
    · exact h
  split
  · split
    · exact hcounted
    · exact hcounted.of_eq rfl rfl rfl rfl rfl rfl rfl
  · exact switchReceiverOff_over hcounted

theorem unslottedReception_over {r : Reception} {s : State} (h : SessionOver s) :
    SessionOver (unslottedReception r s) := by
  unfold unslottedReception
  split
  · exact h
  · exact finishEcho_over h
  · rename_i hr
    exact absurd hr h.2.1

theorem afterTransmission_over {t : Time} {f : Frame} {s : State} (h : SessionOver s) :
    SessionOver (afterTransmission t f s) := by
  unfold afterTransmission
  extract_lets counted
  have hcounted : SessionOver counted := by
    unfold counted
    split
    · exact h.of_eq rfl rfl rfl rfl rfl rfl rfl
    · exact h
  split
  · split
    · exact switchReceiverOff_over hcounted
    · exact hcounted
  · split
    · rename_i hs
      exact absurd (by simp_all) (hcounted.not_state (st := .starting) rfl)
    · split
      · exact hcounted.of_eq rfl rfl rfl rfl rfl rfl rfl
      · exact hcounted

theorem carrierDetect_over {t : Time} {level : Bool} {s : State} (h : SessionOver s) :
    SessionOver (nextState (.carrierDetect t level) s) := by
  rw [nextState_carrierDetect]
  split
  · exact h
  · split
    · simp only [carrierRises, h.timers.1, if_true]
      rw [if_neg (by simp [h.not_state (st := .starting) rfl])]
      exact h.next rfl h.2.1 (by simp [h.startEcho]) h.queues h.contexts rfl rfl
    · simp only [carrierFalls, h.timers.1, if_true]
      exact h.of_eq rfl rfl rfl rfl rfl rfl rfl

/-! ### Every command -/

/-- JOIN leads to LISTEN, or leaves the station state as it is (R27, R168). -/
theorem joinCommand_law {t : Time} {s : State} (h : StationLaw s) : StationLaw (joinCommand t s) := by
  unfold joinCommand
  split
  · dsimp only
    split
    · exact enterListen_law _ _
    · exact h
  · exact h

theorem leaveCommand_law {s : State} (h : StationLaw s) : StationLaw (leaveCommand s) := by
  rcases h.runs_or_over with runs | ended
  · unfold leaveCommand
    split <;> first
      | exact runs.keeps rfl (.inl rfl)
      | exact (enterStopped_over s).law
  · exact (leaveCommand_over ended).law

theorem flushCommand_law {c : Class} {s : State} (h : StationLaw s) : StationLaw (flushCommand c s) := by
  rcases h.runs_or_over with runs | ended
  · exact runs.keeps (by simp) (.inl (by simp))
  · exact (flushCommand_over ended).law

/-- A reset leaves CONFIG with every block cleared (R24, R174). -/
theorem reset_over {s : State} (hlif : s.lif = Lif.reset) (hcyc : s.cyc = Cyc.reset) (hssu : s.ssu = Ssu.reset)
    (halc : s.alc = Alc.reset) (htxq : s.txq = Txq.reset) (hras : s.ras = Ras.reset) : SessionOver s := by
  refine ⟨by rw [hcyc]; rfl, by rw [hlif]; decide, fun _ => ?_⟩
  rw [hlif, hcyc, hssu, halc, htxq, hras]
  exact ⟨fun c => Four.get_all [] c, rfl, rfl, rfl, rfl, rfl, rfl, rfl, rfl, rfl, rfl, rfl, rfl, rfl, rfl, rfl, rfl,
    rfl, rfl, rfl, rfl, rfl, rfl, rfl, rfl, rfl⟩

theorem softResetCommand_over (s : State) : SessionOver (softResetCommand s) :=
  reset_over rfl rfl rfl rfl rfl rfl

theorem writeRegister_law {t : Time} {addr : BitVec 7} {v : Half} {s : State} (h : StationLaw s) :
    StationLaw (writeRegister t addr v s) := by
  rcases writeRegister_cases t addr v s with ⟨-, e⟩ | e | ⟨c, e⟩ | ⟨-, e⟩ | e | ⟨-, e⟩ | ⟨-, -, e⟩ | e <;> rw [e]
  · exact joinCommand_law h
  · exact leaveCommand_law h
  · exact flushCommand_law h
  · exact (softResetCommand_over s).law
  all_goals exact h

theorem carrierDetect_law {t : Time} {level : Bool} {s : State} (h : StationLaw s) :
    StationLaw (nextState (.carrierDetect t level) s) := by
  rcases h.runs_or_over with runs | ended
  · rw [nextState_carrierDetect]
    split
    · exact h
    · split
      · unfold carrierRises
        dsimp only
        split
        · exact enterListen_law _ _
        · split <;> exact runs.keeps rfl (.inl rfl)
      · unfold carrierFalls
        dsimp only
        split <;> exact runs.keeps rfl (.inl rfl)
  · exact (carrierDetect_over ended).law

theorem foundLine_runs {t : Time} {s : State} (h : SessionRuns s) : SessionRuns (foundLine t s) :=
  h.next (by simp) (.inr (by simp [foundLine, StationState.inactive]))

theorem settleStartEcho_law {t : Time} {s : State} (h : SessionRuns s) : StationLaw (settleStartEcho t s) := by
  unfold settleStartEcho
  dsimp only
  (repeat' split) <;> first
    | exact h.law
    | exact h.keeps rfl (.inl rfl)
    | exact startEchoFailed_law _ _

theorem afterTransmission_law {t : Time} {f : Frame} {s : State} (h : StationLaw s) :
    StationLaw (afterTransmission t f s) := by
  rcases h.runs_or_over with runs | ended
  · unfold afterTransmission
    extract_lets counted
    have hcounted : SessionRuns counted := by
      unfold counted
      split
      · exact runs.next (by simp) (.inl (by simp))
      · exact runs
    rw [if_neg (by simp [hcounted.2])]
    split
    · exact settleStartEcho_law (foundLine_runs hcounted)
    · split
      · exact hcounted.keeps rfl (.inl rfl)
      · exact hcounted.law
  · exact (afterTransmission_over ended).law

theorem lineLostTimerExpiry_law {t : Time} {s : State} (h : StationLaw s) :
    StationLaw (nextState (.lineLostTimerExpiry t) s) := by
  rw [nextState_lineLostTimerExpiry]
  rcases h.runs_or_over with runs | ended
  · have lost : SessionRuns (forgetEcho (loseTiming s)) := runs.next (by simp) (.inl (by simp))
    split
    · unfold lineLoss
      split <;> first
        | exact stepLoss_law _ _
        | exact (enterStopped_over _).law
        | exact lost.law
    · exact h
  · simpa [ended.timers.2, Timer.reached] using h

theorem frameRequest_runs {s : State} (h : SessionRuns s) : SessionRuns (nextState .frameRequest s) := by
  cases hg : ownGrantedSlot s with
  | none => rwa [nextState_frameRequest_idle hg]
  | some g =>
    obtain ⟨e, i, total⟩ := g
    rw [nextState_frameRequest hg]
    split
    · exact h.next (by simp) (.inl (by simp))
    · exact h

theorem tableSend_runs {s : State} (h : SessionRuns s) : SessionRuns (nextState .tableSend s) := by
  cases hf : s.ssu.tableOut with
  | none => rwa [nextState_tableSend_idle (.inl hf)]
  | some f =>
    cases hg : s.alc.grants with
    | none => rwa [nextState_tableSend_idle (.inr hg)]
    | some g =>
      rw [nextState_tableSend hf hg]
      split
      · exact h.next rfl (.inl rfl)
      · exact h

/-- Every command keeps the laws of the station states (R12, R45). -/
theorem nextState_law (c : Instr) {s : State} (h : StationLaw s) : StationLaw (nextState c s) := by
  cases c with
  | powerOn => exact (reset_over rfl rfl rfl rfl rfl rfl).law
  | resetPinAssert => exact (reset_over rfl rfl rfl rfl rfl rfl).law
  | resetPinRelease => exact h
  | cleanUpComplete => rw [nextState_cleanUpComplete]; split <;> exact h
  | join t => rw [nextState_join]; split; exacts [h, joinCommand_law h]
  | leave => rw [nextState_leave]; split; exacts [h, leaveCommand_law h]
  | flush c => rw [nextState_flush]; split; exacts [h, flushCommand_law h]
  | softReset => rw [nextState_softReset]; split; exacts [h, (softResetCommand_over s).law]
  | unknownCommand code => rw [nextState_unknownCommand]; split; exacts [h, by split <;> exact h]
  | registerWrite t addr v => rw [nextState_registerWrite]; split; exacts [h, writeRegister_law h]
  | eventsRead =>
    rw [nextState_eventsRead]
    unfold completeEventsRead
    (repeat' split) <;> exact h
  | counterRead k =>
    rw [nextState_counterRead]
    unfold completeCounterRead
    (repeat' split) <;> exact h
  | carrierDetect t level => exact carrierDetect_law h
  | listenTimerExpiry t =>
    by_cases hdue : s.cyc.state = .listen ∧ ∃ since, s.cyc.listenTimer = .running since ∧ since + listenTimeout ≤ t
    · obtain ⟨hs, since, hl, hd⟩ := hdue
      rw [nextState_listenTimerExpiry_of_due hs hl hd]
      exact ((h.runs (by rw [hs]; rfl)).enterState (st := .starting) rfl).keeps rfl (.inl rfl)
    · rw [nextState_listenTimerExpiry_of_not_due fun hs since hl hd => hdue ⟨hs, since, hl, hd⟩]
      exact h
  | coldStartDelayEnd t =>
    rw [nextState_coldStartDelayEnd]
    split
    · rename_i hs
      have hs : s.cyc.state = .starting := by simp_all
      exact (h.runs (by rw [hs]; rfl)).keeps rfl (.inl rfl)
    · exact h
  | transmissionEnd t =>
    cases htx : s.lif.tx with
    | none => rwa [nextState_transmissionEnd_idle htx]
    | some f => rw [nextState_transmissionEnd htx]; exact afterTransmission_law h
  | lineLostTimerExpiry t => exact lineLostTimerExpiry_law h
  | ownBid => rw [nextState_ownBid]; split <;> exact h
  | slotReport line => exact slotReport_law h
  | unslottedReception r =>
    rcases h.runs_or_over with runs | ended
    · exact unslottedReception_runs runs
    · exact (unslottedReception_over ended).law
  | cycleBoundary =>
    cases hg : nextGap s.cyc with
    | none => rwa [nextState_cycleBoundary_idle hg]
    | some start =>
      rw [nextState_cycleBoundary hg]
      rcases h.runs_or_over with runs | ended
      · exact beginGap_law runs
      · simp [nextGap, ended.position] at hg
  | tableSend =>
    rcases h.runs_or_over with runs | ended
    · exact (tableSend_runs runs).law
    · rwa [nextState_tableSend_idle (.inl ended.tableOut)]
  | frameRequest =>
    rcases h.runs_or_over with runs | ended
    · exact (frameRequest_runs runs).law
    · rwa [nextState_frameRequest_idle (by simp [ownGrantedSlot, ended.grants])]
  | staleTimerExpiry t src cls =>
    rw [nextState_staleTimerExpiry]
    rcases h.runs_or_over with runs | ended
    · exact runs.keeps (by simp) (.inl (by simp))
    · simpa [staleExpiry, findContext, ended.contexts] using h
  | ingressWord kind w =>
    rw [nextState_ingressWord]
    split
    · rcases h.runs_or_over with runs | ended
      · exact runs.keeps (by simp) (.inl (by simp))
      · exact (takeIngressWord_over ended).law
    · exact h
  | egressWordTaken =>
    rw [nextState_egressWordTaken]
    split
    · rcases h.runs_or_over with runs | ended
      · exact runs.keeps (by simp) (.inl (by simp))
      · exact (ended.of_eq (by simp) (by simp) (by simp) (by simp) (by simp) (by simp) (by simp)).law
    · exact h
  | readCapture addr => rw [nextState_readCapture]; split <;> exact h

/-! ### The station state while the station is inactive -/

/-- The station state and the halt cause stay as they are. -/
def StateKept (s t : State) : Prop := t.cyc.state = s.cyc.state ∧ t.cyc.haltCause = s.cyc.haltCause

theorem lineLoss_inactive {t : Time} {s : State} (h : s.cyc.state.inactive = true) : lineLoss t s = s := by
  unfold lineLoss
  split <;> simp_all [StationState.inactive]

theorem boundaryStep_inactive {t : Time} {s : State} (h : s.cyc.state.inactive = true) : boundaryStep t s = s := by
  unfold boundaryStep
  split <;> simp_all [StationState.inactive]

theorem leaveCommand_inactive {s : State} (h : s.cyc.state.inactive = true) : leaveCommand s = refuseCommand s := by
  unfold leaveCommand
  split <;> simp_all [StationState.inactive]

theorem joinCommand_halted {t : Time} {s : State} (h : s.cyc.state = .halted) :
    joinCommand t s = refuseCommand s := by
  simp [joinCommand, h]

theorem slotReport_inactive {line : SpanLine} {s : State} (h : s.cyc.state.inactive = true) : slotReport line s = s := by
  simp [slotReport, h]

theorem finishEcho_cyc (f : Option Frame) (s : State) : (finishEcho f s).cyc = s.cyc := by
  unfold finishEcho
  dsimp only
  (repeat' split) <;> rfl

theorem afterTransmission_cyc {t : Time} {f : Frame} {s : State} (h : s.cyc.state.inactive = true) :
    (afterTransmission t f s).cyc = s.cyc := by
  have hs : s.cyc.state ≠ .starting := fun hs => by simp [hs, StationState.inactive] at h
  unfold afterTransmission
  extract_lets counted
  have hc : counted.cyc = s.cyc := by
    unfold counted
    split <;> rfl
  rw [← hc]
  split
  · split <;> rfl
  · rw [if_neg (by simp [hc, hs])]
    split <;> rfl

/-- CONFIG, STOPPED and HALTED, and the halt cause, are left by a reset or a JOIN alone, and HALTED by a reset alone
(R27, R46). -/
theorem nextState_stateKept {c : Instr} {s : State} (hi : s.cyc.state.inactive = true) (hr : s.lif.receiver ≠ .on)
    (hc : isReset c = false) (hj : isJoin c = false ∨ s.cyc.state = .halted) : StateKept s (nextState c s) := by
  have not {st : StationState} (hst : st.inactive = false) : s.cyc.state ≠ st := fun hs => by simp [hs, hst] at hi
  have same : StateKept s s := ⟨rfl, rfl⟩
  cases c with
  | powerOn => cases hc
  | resetPinAssert => cases hc
  | resetPinRelease => exact same
  | cleanUpComplete => rw [nextState_cleanUpComplete]; split <;> exact same
  | join t =>
    rw [nextState_join, joinCommand_halted (s := endRead s) (hj.resolve_left (by simp [isJoin]))]
    split <;> exact same
  | leave => rw [nextState_leave, leaveCommand_inactive (s := endRead s) hi]; split <;> exact same
  | flush c => rw [nextState_flush]; split; exacts [same, ⟨by simp, by simp⟩]
  | softReset => cases hc
  | unknownCommand code => rw [nextState_unknownCommand]; split; exacts [same, by split <;> exact same]
  | registerWrite t addr v =>
    rw [nextState_registerWrite]
    split
    · exact same
    · rcases writeRegister_cases t addr v (endRead s) with
        ⟨hjoin, e⟩ | e | ⟨c, e⟩ | ⟨hreset, -⟩ | e | ⟨-, e⟩ | ⟨-, -, e⟩ | e <;> try rw [e]
      · rw [joinCommand_halted (s := endRead s) (hj.resolve_left (by simp [hjoin]))]
        exact same
      · rw [leaveCommand_inactive (s := endRead s) hi]
        exact same
      · exact ⟨by simp, by simp⟩
      · simp [hreset] at hc
      all_goals exact same
  | eventsRead =>
    rw [nextState_eventsRead]
    unfold completeEventsRead
    (repeat' split) <;> exact same
  | counterRead k =>
    rw [nextState_counterRead]
    unfold completeCounterRead
    (repeat' split) <;> exact same
  | carrierDetect t level =>
    rw [nextState_carrierDetect]
    split
    · exact same
    · split
      · unfold carrierRises
        dsimp only
        rw [if_neg (by simp [not (st := .starting) rfl])]
        split <;> exact same
      · unfold carrierFalls
        dsimp only
        split <;> exact same
  | listenTimerExpiry t =>
    rw [nextState_listenTimerExpiry_of_not_due fun hs => absurd hs (not rfl)]
    exact same
  | coldStartDelayEnd t =>
    rw [nextState_coldStartDelayEnd, if_neg (by simp [not (st := .starting) rfl])]
    exact same
  | transmissionEnd t =>
    cases htx : s.lif.tx with
    | none => rw [nextState_transmissionEnd_idle htx]; exact same
    | some f =>
      rw [nextState_transmissionEnd htx, StateKept,
        afterTransmission_cyc (s := { s with lif := { s.lif with tx := none } }) hi]
      exact same
  | lineLostTimerExpiry t =>
    rw [nextState_lineLostTimerExpiry]
    split
    · rw [lineLoss_inactive (by simpa using hi)]
      exact ⟨by simp, by simp⟩
    · exact same
  | ownBid => rw [nextState_ownBid]; split <;> exact same
  | slotReport line => rw [nextState_slotReport, slotReport_inactive hi]; exact same
  | unslottedReception r =>
    rw [nextState_unslottedReception]
    unfold unslottedReception
    split
    · exact same
    · rw [StateKept, finishEcho_cyc]; exact same
    · rename_i hon
      exact absurd hon hr
  | cycleBoundary =>
    cases hg : nextGap s.cyc with
    | none => rw [nextState_cycleBoundary_idle hg]; exact same
    | some start =>
      rw [nextState_cycleBoundary hg, beginGap, takeBoundary, boundaryStep_inactive (by simpa using hi)]
      exact ⟨by simp, by simp⟩
  | tableSend =>
    cases hf : s.ssu.tableOut with
    | none => rw [nextState_tableSend_idle (.inl hf)]; exact same
    | some f =>
      cases hg : s.alc.grants with
      | none => rw [nextState_tableSend_idle (.inr hg)]; exact same
      | some g => rw [nextState_tableSend hf hg]; split <;> exact same
  | frameRequest =>
    cases hg : ownGrantedSlot s with
    | none => rw [nextState_frameRequest_idle hg]; exact same
    | some g => rw [nextState_frameRequest hg]; split; exacts [⟨by simp, by simp⟩, same]
  | staleTimerExpiry t src cls => exact ⟨by simp [nextState_staleTimerExpiry], by simp [nextState_staleTimerExpiry]⟩
  | ingressWord kind w => rw [nextState_ingressWord]; split; exacts [⟨by simp, by simp⟩, same]
  | egressWordTaken => rw [nextState_egressWordTaken]; split; exacts [⟨by simp, by simp⟩, same]
  | readCapture addr => rw [nextState_readCapture]; split <;> exact same

/-! ### The profile and the local settings -/

/-- The profile and the local settings stay as they are. -/
def SettingsKept (s t : State) : Prop := t.mgt.profile = s.mgt.profile ∧ t.mgt.settings = s.mgt.settings

theorem writeRegister_settings {t : Time} {addr : BitVec 7} {v : Half} {s : State}
    (h : s.cyc.state ≠ .config ∨ isSettingAddr addr.toNat = false) : SettingsKept s (writeRegister t addr v s) := by
  rcases writeRegister_cases t addr v s with
    ⟨-, e⟩ | e | ⟨c, e⟩ | ⟨-, e⟩ | e | ⟨-, e⟩ | ⟨hset, hconfig, e⟩ | e <;> rw [e]
  · exact ⟨by simp, by simp⟩
  · exact ⟨by simp, by simp⟩
  · exact ⟨by simp, by simp⟩
  · exact ⟨rfl, rfl⟩
  · exact ⟨rfl, rfl⟩
  · exact ⟨rfl, rfl⟩
  · exact absurd hconfig (h.resolve_right (by simp [hset]))
  · exact ⟨rfl, rfl⟩

theorem writeRegister_mask {t : Time} {addr : BitVec 7} {v : Half} {s : State} (h : addr ≠ 0x02) :
    (writeRegister t addr v s).mgt.mask = s.mgt.mask := by
  rcases writeRegister_cases t addr v s with
    ⟨-, e⟩ | e | ⟨c, e⟩ | ⟨-, e⟩ | e | ⟨hmask, -⟩ | ⟨-, -, e⟩ | e
  · rw [e]; simp
  · rw [e]; simp
  · rw [e]; simp
  · rw [e]; rfl
  · rw [e]; rfl
  · exact absurd hmask h
  · rw [e]
  · rw [e]

/-- A command other than power-on, the RESET pin and a register write keeps the profile, the local settings and the
event mask (R166). -/
theorem nextState_locked {c : Instr} {s : State} (h1 : c ≠ .powerOn) (h2 : c ≠ .resetPinAssert)
    (h3 : ∀ w a v, c ≠ .registerWrite w a v) : SettingsKept s (nextState c s) ∧ (nextState c s).mgt.mask = s.mgt.mask := by
  have same : SettingsKept s s ∧ s.mgt.mask = s.mgt.mask := ⟨⟨rfl, rfl⟩, rfl⟩
  cases c with
  | powerOn => exact absurd rfl h1
  | resetPinAssert => exact absurd rfl h2
  | resetPinRelease => exact same
  | cleanUpComplete => rw [nextState_cleanUpComplete]; split <;> exact same
  | join t => rw [nextState_join]; split; exacts [same, ⟨⟨by simp, by simp⟩, by simp⟩]
  | leave => rw [nextState_leave]; split; exacts [same, ⟨⟨by simp, by simp⟩, by simp⟩]
  | flush c => rw [nextState_flush]; split; exacts [same, ⟨⟨by simp, by simp⟩, by simp⟩]
  | softReset => rw [nextState_softReset]; split <;> exact same
  | unknownCommand code => rw [nextState_unknownCommand]; split; exacts [same, by split <;> exact same]
  | registerWrite t addr v => exact absurd rfl (h3 t addr v)
  | eventsRead => rw [nextState_eventsRead]; split; exacts [same, ⟨⟨by simp, by simp⟩, by simp⟩]
  | counterRead k => rw [nextState_counterRead]; split; exacts [same, ⟨⟨by simp, by simp⟩, by simp⟩]
  | carrierDetect t level =>
    rw [nextState_carrierDetect]
    unfold carrierRises carrierFalls
    dsimp only
    (repeat' split) <;> exact ⟨⟨by simp, by simp⟩, by simp⟩
  | listenTimerExpiry t =>
    by_cases hdue : s.cyc.state = .listen ∧ ∃ since, s.cyc.listenTimer = .running since ∧ since + listenTimeout ≤ t
    · obtain ⟨hs, since, hl, hd⟩ := hdue
      rw [nextState_listenTimerExpiry_of_due hs hl hd]
      exact ⟨⟨by simp, by simp⟩, by simp⟩
    · rw [nextState_listenTimerExpiry_of_not_due fun hs since hl hd => hdue ⟨hs, since, hl, hd⟩]
      exact same
  | coldStartDelayEnd t => rw [nextState_coldStartDelayEnd]; split <;> exact same
  | transmissionEnd t =>
    cases htx : s.lif.tx with
    | none => rw [nextState_transmissionEnd_idle htx]; exact same
    | some f => rw [nextState_transmissionEnd htx]; exact ⟨⟨by simp, by simp⟩, by simp⟩
  | lineLostTimerExpiry t => rw [nextState_lineLostTimerExpiry]; split; exacts [⟨⟨by simp, by simp⟩, by simp⟩, same]
  | ownBid => rw [nextState_ownBid]; split <;> exact same
  | slotReport line => rw [nextState_slotReport]; exact ⟨⟨by simp, by simp⟩, by simp⟩
  | unslottedReception r => rw [nextState_unslottedReception]; exact ⟨⟨by simp, by simp⟩, by simp⟩
  | cycleBoundary =>
    cases hg : nextGap s.cyc with
    | none => rw [nextState_cycleBoundary_idle hg]; exact same
    | some start => rw [nextState_cycleBoundary hg]; exact ⟨⟨by simp, by simp⟩, by simp⟩
  | tableSend =>
    cases hf : s.ssu.tableOut with
    | none => rw [nextState_tableSend_idle (.inl hf)]; exact same
    | some f =>
      cases hg : s.alc.grants with
      | none => rw [nextState_tableSend_idle (.inr hg)]; exact same
      | some g => rw [nextState_tableSend hf hg]; split <;> exact same
  | frameRequest =>
    cases hg : ownGrantedSlot s with
    | none => rw [nextState_frameRequest_idle hg]; exact same
    | some g => rw [nextState_frameRequest hg]; split; exacts [⟨⟨by simp, by simp⟩, by simp⟩, same]
  | staleTimerExpiry t src cls => rw [nextState_staleTimerExpiry]; exact ⟨⟨by simp, by simp⟩, by simp⟩
  | ingressWord kind w => rw [nextState_ingressWord]; split; exacts [⟨⟨by simp, by simp⟩, by simp⟩, same]
  | egressWordTaken => rw [nextState_egressWordTaken]; split; exacts [⟨⟨by simp, by simp⟩, by simp⟩, same]
  | readCapture addr => rw [nextState_readCapture]; split <;> exact same

/-- The lock of R166: a command other than power-on and the RESET pin keeps the profile and the local settings, but for
a setting written in CONFIG. -/
theorem nextState_settingsKept {c : Instr} {s : State} (h1 : c ≠ .powerOn) (h2 : c ≠ .resetPinAssert)
    (h3 : s.cyc.state ≠ .config ∨ ∀ w a v, c = .registerWrite w a v → isSettingAddr a.toNat = false) :
    SettingsKept s (nextState c s) := by
  by_cases hw : ∃ w a v, c = .registerWrite w a v
  · obtain ⟨w, a, v, rfl⟩ := hw
    rw [nextState_registerWrite]
    split
    · exact ⟨rfl, rfl⟩
    · exact writeRegister_settings (h3.imp id fun h => h w a v rfl)
  · exact (nextState_locked h1 h2 fun w a v e => hw ⟨w, a, v, e⟩).1

/-- A JOIN that leaves CONFIG has passed the validation (R167). -/
theorem joinCommand_validated {t : Time} {s : State} (hs : s.cyc.state = .config) :
    (joinCommand t s).cyc.state = .config ∨ joinValidation s.mgt.profile s.mgt.settings = .none := by
  unfold joinCommand
  dsimp only
  rw [if_pos (.inl hs)]
  split
  · rename_i hv
    exact .inr hv
  · exact .inl hs

/-- A command that leads out of CONFIG is a JOIN, which has passed the validation (R167). -/
theorem nextState_validated {c : Instr} {s : State} (h : StationLaw s) (hs : s.cyc.state = .config)
    (hc : isReset c = false) :
    (nextState c s).cyc.state = .config ∨
      joinValidation (nextState c s).mgt.profile (nextState c s).mgt.settings = .none := by
  have hi : s.cyc.state.inactive = true := by rw [hs]; rfl
  have joined (t : Time) (u : State) (hu : u = endRead s) : (joinCommand t u).cyc.state = .config ∨
      joinValidation (joinCommand t u).mgt.profile (joinCommand t u).mgt.settings = .none := by
    subst hu
    rw [(joinCommand_frame t (endRead s)).2.2.2.2.2.2.1]
    simpa using joinCommand_validated (t := t) (s := endRead s) hs
  cases hj : isJoin c with
  | false =>
    exact .inl ((nextState_stateKept hi (fun hon => absurd (hi.symm.trans (h.1.mp hon)) (by decide)) hc
      (.inl hj)).1.trans hs)
  | true =>
    cases c with
    | join t =>
      rw [nextState_join]
      split
      · exact .inl hs
      · exact joined t _ rfl
    | registerWrite t addr v =>
      rw [nextState_registerWrite]
      split
      · exact .inl hs
      · rw [isJoin, Bool.and_eq_true, beq_iff_eq, beq_iff_eq] at hj
        have e : writeRegister t addr v (endRead s) = joinCommand t (endRead s) := by
          simp only [writeRegister, hj, if_true, commandWrite]
        rw [e]
        exact joined t _ rfl
    | _ => cases hj

/-- A reset leads to CONFIG, where the RESET pin lets it be taken (R24, R169, R174). -/
theorem nextState_reset {c : Instr} {s : State} (hc : isReset c = true) :
    nextState c s = s ∨ (nextState c s).cyc = Cyc.reset ∧ (nextState c s).ssu = Ssu.reset := by
  cases c with
  | powerOn => exact .inr ⟨rfl, rfl⟩
  | resetPinAssert => exact .inr ⟨rfl, rfl⟩
  | softReset => rw [nextState_softReset]; split; exacts [.inl rfl, .inr ⟨rfl, rfl⟩]
  | registerWrite t addr v =>
    rw [nextState_registerWrite]
    split
    · exact .inl rfl
    · rw [isReset, Bool.and_eq_true, beq_iff_eq, beq_iff_eq] at hc
      rw [writeRegister, if_pos hc.1, commandWrite, hc.2]
      exact .inr ⟨rfl, rfl⟩
  | _ => cases hc

/-- Every command keeps the validated profile (R166, R167). -/
theorem nextState_profileLaw {c : Instr} {s : State} (h : StationLaw s) (hp : ProfileLaw s) :
    ProfileLaw (nextState c s) := by
  intro hout
  cases hc : isReset c with
  | true =>
    rcases nextState_reset (s := s) hc with e | ⟨e, -⟩
    · rw [e] at hout ⊢
      exact hp hout
    · exact absurd (by rw [e]; rfl) hout
  | false =>
    by_cases hs : s.cyc.state = .config
    · exact (nextState_validated h hs hc).resolve_left hout
    · obtain ⟨hprofile, hsettings⟩ := nextState_settingsKept (c := c) (by rintro rfl; cases hc) (by rintro rfl; cases hc)
        (.inl hs)
      rw [hprofile, hsettings]
      exact hp hs

end Sys2Proof.Machine

open Sys2Proof Sys2Proof.Machine

/-- Settles O57: a session runs or is over, every command leads from either to either, and CONFIG is left by a JOIN that
has passed the validation alone. -/
theorem stepKeepsSessionAndProfileLaws : Obligations.StepKeepsSessionAndProfileLaws := by
  refine ⟨fun s t hr hs h => ?_, fun s t hr hs hp h => ?_⟩
  · rcases step_cases h with rfl | ⟨c, rest, -, rfl⟩
    · exact ⟨hr, hs⟩
    · exact nextState_law c ⟨hr, hs⟩
  · rcases step_cases h with rfl | ⟨c, rest, -, rfl⟩
    · exact hp
    · exact nextState_profileLaw ⟨hr, hs⟩ hp
end

section
/-! SUPPORT. The schedule state and the bid table: the bounds of R64 row by row, through ALC's passes, a commit, the
founding values and a loaded TABLE; and the digest of a loaded TABLE. -/

namespace Sys2Proof.Machine

/-! ### Rows -/

/-- The bounds of R64 on the row of station `st`. -/
def RowLaw (p : Profile) (st : Station) (row : SchedRow) : Prop :=
  (row.member = true → st.val < p.lineSize ∧ row.silence < p.limit) ∧ (row.member = false → row = SchedRow.clear) ∧
    ∀ c : Class, c ≠ 0 → row.deficit c ≤ 4 * p.quantum c

theorem scheduleBounds_iff (p : Profile) (d : Sched) :
    ScheduleBounds p d ↔ d.rows.length = 16 ∧ d.pointer ≤ 15 ∧ ∀ st, RowLaw p st (d.row st) := Iff.rfl

theorem stations_map_getD {α : Type} (g : Station → α) (st : Station) (z : α) :
    (stations.map g).getD st.val z = g st := by
  fin_cases st <;> rfl

theorem mem_stations (st : Station) : st ∈ stations := by
  revert st; decide

theorem Sched.mapRows_row (f : Station → SchedRow → SchedRow) (d : Sched) (st : Station) :
    (d.mapRows f).row st = f st (d.row st) :=
  stations_map_getD (fun s => f s (d.row s)) st _

theorem rowLaw_clear (p : Profile) (st : Station) : RowLaw p st SchedRow.clear :=
  ⟨fun h => absurd h (by decide), fun _ => rfl, fun c _ => by fin_cases c <;> exact Nat.zero_le _⟩

theorem Sched.empty_row (st : Station) : Sched.empty.row st = SchedRow.clear := by
  fin_cases st <;> rfl

/-- The empty schedule state lies within the bounds of every profile (R64). -/
theorem scheduleBounds_empty (p : Profile) : ScheduleBounds p Sched.empty :=
  ⟨rfl, by decide, fun st => by rw [Sched.empty_row]; exact rowLaw_clear p st⟩

/-- A member with no silence and no deficits is within its bounds (R33, R68). -/
theorem rowLaw_fresh {p : Profile} {st : Station} (h1 : st.val < p.lineSize) (h2 : 0 < p.limit) :
    RowLaw p st ⟨true, 0, 0, 0, 0⟩ :=
  ⟨fun _ => ⟨h1, h2⟩, fun h => absurd h (by decide), fun c _ => by fin_cases c <;> exact Nat.zero_le _⟩

/-- The founding values lie within the bounds (R33). -/
theorem scheduleBounds_founding {p : Profile} {own : Station} (h1 : own.val < p.lineSize) (h2 : 0 < p.limit) :
    ScheduleBounds p (foundingSched own) := by
  refine ⟨rfl, by have := own.isLt; show own.val ≤ 15; omega, fun st => ?_⟩
  have hrow : (foundingSched own).row st = ⟨st == own, 0, 0, 0, 0⟩ :=
    stations_map_getD (fun s => (⟨s == own, 0, 0, 0, 0⟩ : SchedRow)) st _
  rw [hrow]
  by_cases h : st = own
  · rw [h, beq_self_eq_true]
    exact rowLaw_fresh h1 h2
  · rw [beq_eq_false_iff_ne.mpr h]
    exact rowLaw_clear p st

/-! ### The accounts of ALC -/

/-- The account of a member with its deficits within their bound (R64, R83). -/
def AccountLaw (p : Profile) (d : Sched) (a : Account) : Prop :=
  (d.row a.station).member = true ∧ ∀ c : Class, c ≠ 0 → a.deficit.get c ≤ 4 * p.quantum c

/-- An account stays lawful where one deficit changes within its bound. -/
theorem AccountLaw.set {p : Profile} {d : Sched} {a b : Account} (h : AccountLaw p d a) {c : Class} {n : Nat}
    (hs : b.station = a.station) (hd : b.deficit = a.deficit.set c n) (hn : n ≤ 4 * p.quantum c) : AccountLaw p d b := by
  refine ⟨by rw [hs]; exact h.1, fun e he => ?_⟩
  rw [hd]
  by_cases hec : e = c
  · rw [hec, Four.get_set_self]
    exact hn
  · rw [Four.get_set_of_ne _ _ hec]
    exact h.2 e he

theorem addDeficit_law {p : Profile} {d : Sched} {a : Account} (c : Class) (h : AccountLaw p d a) :
    AccountLaw p d (addDeficit p.quantum c a) := by
  unfold addDeficit
  split
  · exact h.set rfl rfl (Nat.min_le_right _ _)
  · exact h

theorem resetDeficit_law {p : Profile} {d : Sched} {a : Account} (c : Class) (h : AccountLaw p d a) :
    AccountLaw p d (resetDeficit c a) := by
  unfold resetDeficit
  split
  · exact h.set rfl rfl (Nat.zero_le _)
  · exact h

theorem shareOne_law {p : Profile} {d : Sched} {x : Account × Nat} {c : Class} (hc : c ≠ 0) (h : AccountLaw p d x.1) :
    AccountLaw p d (shareOne c x).1 :=
  h.set rfl rfl ((Nat.sub_le _ _).trans (h.2 c hc))

theorem fillOne_law {p : Profile} {d : Sched} {x : Account × Nat} (c : Class) (h : AccountLaw p d x.1) :
    AccountLaw p d (fillOne c x).1 := h

theorem expressPass_law {p : Profile} {d : Sched} (x : Nat) (as : List Account) (h : ∀ a ∈ as, AccountLaw p d a) :
    ∀ a ∈ expressPass x as, AccountLaw p d a := by
  induction as generalizing x with
  | nil => exact h
  | cons a as ih =>
    rw [List.forall_mem_cons] at h
    rw [expressPass, List.forall_mem_cons]
    exact ⟨h.1, ih _ h.2⟩

theorem sharedPass_law {p : Profile} {d : Sched} (r : Nat) (as : List Account) (h : ∀ a ∈ as, AccountLaw p d a) :
    ∀ a ∈ (sharedPass r as).1, AccountLaw p d a := by
  induction as generalizing r with
  | nil => exact h
  | cons a as ih =>
    rw [List.forall_mem_cons] at h
    rw [sharedPass, List.forall_mem_cons]
    exact ⟨shareOne_law (by decide) (shareOne_law (by decide) (shareOne_law (by decide) h.1)), ih _ h.2⟩

theorem fillPass_law {p : Profile} {d : Sched} (r : Nat) (as : List Account) (h : ∀ a ∈ as, AccountLaw p d a) :
    ∀ a ∈ (fillPass r as).1, AccountLaw p d a := by
  induction as generalizing r with
  | nil => exact h
  | cons a as ih =>
    rw [List.forall_mem_cons] at h
    rw [fillPass, List.forall_mem_cons]
    exact ⟨fillOne_law 3 (fillOne_law 2 (fillOne_law 1 h.1)), ih _ h.2⟩

/-- Every pass keeps the deficits within their bound (R80 to R86). -/
theorem settleAccounts_law {p : Profile} {d : Sched} (placed : Bool) (as : List Account)
    (h : ∀ a ∈ as, AccountLaw p d a) : ∀ a ∈ settleAccounts p placed as, AccountLaw p d a := by
  have added (bs : List Account) (hb : ∀ a ∈ bs, AccountLaw p d a) :
      ∀ a ∈ bs.map (deficitAdd p.quantum), AccountLaw p d a := by
    rw [List.forall_mem_map]
    exact fun a ha => addDeficit_law 3 (addDeficit_law 2 (addDeficit_law 1 (hb a ha)))
  unfold settleAccounts
  dsimp only
  rw [List.forall_mem_map]
  intro a ha
  have := fillPass_law _ _ (sharedPass_law _ _ (added _ (expressPass_law _ _ h))) a ha
  exact resetDeficit_law 3 (resetDeficit_law 2 (resetDeficit_law 1 this))

/-- The accounts opened for members start within the bounds (R79). -/
theorem openAccounts_law {p : Profile} {o : Announcement} {t : BidTable} {d : Sched} (hd : ScheduleBounds p d)
    (ho : ∀ st ∈ o.eligible, (d.row st).member = true) : ∀ a ∈ openAccounts o t d, AccountLaw p d a := by
  intro a ha
  obtain ⟨st, hst, hopen⟩ := List.mem_filterMap.mp ha
  split at hopen <;> cases hopen
  have hmem : st ∈ o.eligible := by
    rcases List.mem_append.mp hst with h | h <;> exact (List.mem_filter.mp h).1
  refine ⟨ho st hmem, fun c hc => ?_⟩
  have := (hd.2.2 st).2.2 c hc
  fin_cases c <;> first | exact absurd rfl hc | exact this

/-! ### The commit -/

theorem dealDeficits_law {p : Profile} {d : Sched} {as : List Account} (ha : ∀ a ∈ as, AccountLaw p d a)
    (st : Station) (h : RowLaw p st (d.row st)) : RowLaw p st (dealDeficits as st (d.row st)) := by
  unfold dealDeficits
  split
  · exact h
  · rename_i a hf
    have hst : a.station = st := by simpa using List.find?_some hf
    obtain ⟨hmember, hdeficit⟩ := ha a (List.mem_of_find?_eq_some hf)
    rw [hst] at hmember
    refine ⟨h.1, fun hm => absurd (hmember.symm.trans hm) (by decide), fun c hc => ?_⟩
    have := hdeficit c hc
    fin_cases c <;> first | exact absurd rfl hc | exact this

/-- The membership updates keep a row within its bounds (R67 to R69). -/
theorem updateRow_law {p : Profile} {st : Station} {status : BidStatus} {member : Bool} {row : SchedRow}
    (h : RowLaw p st row) (hm : row.member = member) (hlimit : 0 < p.limit)
    (hjoin : ∀ b, status = .valid b → st.val < p.lineSize) : RowLaw p st (updateRow p.limit status member row) := by
  obtain ⟨hmem, hnot, hdef⟩ := h
  have calmed (hy : member = true) (n : Nat) (hn : n < p.limit) : RowLaw p st { row with silence := n } :=
    ⟨fun hr => ⟨(hmem hr).1, hn⟩, fun hr => absurd (hr.symm.trans (hm.trans hy)) (by decide), hdef⟩
  unfold updateRow
  split
  · exact ⟨hmem, hnot, hdef⟩
  · exact ⟨hmem, hnot, hdef⟩
  · split
    · rename_i hy
      split
      · exact rowLaw_clear p st
      · exact calmed hy _ (by omega)
    · exact ⟨hmem, hnot, hdef⟩
  · rename_i b
    split
    · split
      · rename_i hy
        exact calmed hy 0 hlimit
      · exact ⟨hmem, hnot, hdef⟩
    · split
      · rename_i hy
        exact calmed hy 0 hlimit
      · exact ⟨hmem, hnot, hdef⟩
    · exact rowLaw_fresh (hjoin b rfl) hlimit
    · split
      · exact rowLaw_clear p st
      · exact ⟨hmem, hnot, hdef⟩

theorem dealDeficits_member (as : List Account) (st : Station) (row : SchedRow) :
    (dealDeficits as st row).member = row.member := by
  unfold dealDeficits
  split <;> rfl

/-- A commit leads from bounds to bounds (R66). -/
theorem scheduleBounds_committed {p : Profile} {bids : BidTable} {as : List Account} {pointer : Nat} {d : Sched}
    (hd : ScheduleBounds p d) (hbids : BidTableLaw p bids) (has : ∀ a ∈ as, AccountLaw p d a) (hlimit : 0 < p.limit)
    (hpointer : pointer ≤ 15) : ScheduleBounds p (committedSched p.limit bids as pointer d) := by
  refine ⟨rfl, hpointer, fun st => ?_⟩
  have hrow : (committedSched p.limit bids as pointer d).row st =
      updateRow p.limit (bids.record st.val).status (d.row st).member (dealDeficits as st (d.row st)) :=
    Sched.mapRows_row (fun st row =>
      updateRow p.limit (bids.record st.val).status (d.row st).member (dealDeficits as st row)) d st
  rw [hrow]
  exact updateRow_law (dealDeficits_law has st (hd.2.2 st)) (dealDeficits_member as st _) hlimit
    fun b hb => (hbids.2 st.val b hb).2.1

theorem nextPointer_le {order : List Station} {pointer : Nat} (h : pointer ≤ 15) : nextPointer order pointer ≤ 15 := by
  cases order with
  | nil => exact h
  | cons st rest =>
    have := Nat.mod_lt (st.val + 1) (show 0 < 16 by decide)
    show (st.val + 1) % 16 ≤ 15
    omega

/-- The candidates are members (R55). -/
theorem candidates_member {t : BidTable} {d : Sched} {b : ValidBid} (h : b ∈ candidates t d) :
    (d.row b.station).member = true := by
  have := (List.mem_filter.mp h).2
  rw [Bool.and_eq_true] at this
  exact this.1

/-- The eligible bids are among the candidates (R57). -/
theorem eligibleBids_subset {cs : List ValidBid} {b : ValidBid} (h : b ∈ eligibleBids cs) : b ∈ cs := by
  unfold eligibleBids at h
  split at h
  · cases h
  · split at h
    · cases h
    · exact (List.mem_filter.mp h).1

theorem announcement_eligible {own : Station} {t : BidTable} {d : Sched} :
    ∀ st ∈ (announcement own t d).eligible, (d.row st).member = true := by
  intro st hst
  obtain ⟨b, hb, rfl⟩ := List.mem_map.mp hst
  exact candidates_member (eligibleBids_subset hb)

/-! ### A loaded TABLE -/

theorem withinBounds_row {p : Profile} {d : Sched} (h : withinBounds p d = true) (st : Station) :
    RowLaw p st (d.row st) := by
  rw [withinBounds, Bool.and_eq_true, List.all_eq_true] at h
  have hst := h.2 st (mem_stations st)
  cases hm : (d.row st).member with
  | true =>
    simp only [hm, if_true, Bool.and_eq_true, decide_eq_true_eq] at hst
    obtain ⟨⟨⟨⟨hn, hs⟩, h1⟩, h2⟩, h3⟩ := hst
    refine ⟨fun _ => ⟨hn, hs⟩, fun hf => absurd (hm.symm.trans hf) (by decide), fun c hc => ?_⟩
    fin_cases c
    exacts [absurd rfl hc, h1, h2, h3]
  | false =>
    simp only [hm, Bool.false_eq_true, if_false, Bool.and_eq_true, beq_iff_eq] at hst
    obtain ⟨⟨⟨hs, h1⟩, h2⟩, h3⟩ := hst
    have hclear : d.row st = SchedRow.clear := by
      rw [SchedRow.clear, ← hm, ← hs]
      cases hr : d.row st
      simp_all
    rw [hclear]
    exact rowLaw_clear p st

theorem scheduleBounds_ofBytes {p : Profile} {body : List Byte} (h : withinBounds p (Sched.ofBytes body) = true) :
    ScheduleBounds p (Sched.ofBytes body) := by
  refine ⟨rfl, ?_, withinBounds_row h⟩
  rw [withinBounds, Bool.and_eq_true, decide_eq_true_eq] at h
  exact h.1

/-- Bit `i` of the membership bits gathered from a list of stations (R65). -/
theorem gatherBits_getLsbD (h : Half) (l : List Station) (acc : Half) (i : Nat) (hi : i < 16) :
    (l.foldl (fun acc s => if h.getLsbD s.val then acc ||| (1#16 <<< s.val) else acc) acc).getLsbD i =
      (acc.getLsbD i || (h.getLsbD i && l.any (fun s => s.val == i))) := by
  induction l generalizing acc with
  | nil => simp
  | cons s l ih =>
    rw [List.foldl_cons, ih, List.any_cons]
    have hone : (1#16 <<< s.val).getLsbD i = (s.val == i) := by
      have hs : (i < s.val ∨ i - s.val ≠ 0) ∨ s.val = i := by omega
      rw [BitVec.getLsbD_shiftLeft, BitVec.getLsbD_one]
      rcases hs with (h1 | h1) | h1
      · simp [h1, (Nat.ne_of_lt h1).symm]
      · have : s.val ≠ i := by omega
        simp [h1, this]
      · simp [h1, hi]
    cases hb : h.getLsbD s.val with
    | true =>
      rw [if_pos rfl, BitVec.getLsbD_or, hone, Bool.and_or_distrib_left, Bool.or_assoc]
      by_cases hsi : s.val = i
      · rw [← hsi, hb]
        rfl
      · simp only [beq_eq_false_iff_ne.mpr hsi, Bool.and_false]
    | false =>
      rw [if_neg (by decide), Bool.and_or_distrib_left]
      by_cases hsi : s.val = i
      · rw [← hsi, hb, Bool.false_and, Bool.false_and, Bool.false_or]
      · rw [beq_eq_false_iff_ne.mpr hsi, Bool.and_false, Bool.false_or]

/-- The membership of a serialised state is read from its bits, and the bits from it (R65). -/
theorem memberBits_ofBytes (bs : List Byte) : (Sched.ofBytes bs).memberBits = halfOf (bs.getD 3 0) (bs.getD 4 0) := by
  have hrow (st : Station) : ((Sched.ofBytes bs).row st).member = (halfOf (bs.getD 3 0) (bs.getD 4 0)).getLsbD st.val := by
    rw [Sched.row, Sched.ofBytes, stations_map_getD]
  unfold Sched.memberBits
  simp only [hrow]
  apply BitVec.eq_of_getLsbD_eq
  intro i hi
  rw [gatherBits_getLsbD _ _ _ _ hi]
  have : stations.any (fun s => s.val == i) = true :=
    List.any_eq_true.mpr ⟨⟨i, hi⟩, mem_stations _, by simp⟩
  simp [this]

theorem natByte_toNat (b : Byte) : natByte b.toNat = b := BitVec.ofNat_toNat _ _

/-- A list is the list of its first elements. -/
theorem map_range_getD {α : Type} (l : List α) (z : α) : (List.range l.length).map (l.getD · z) = l := by
  apply List.ext_getElem (by simp)
  intro n h1 h2
  simp [h2]

/-- The 69 bytes of a TABLE are the serialisation of the state they carry (R65, 11.1). -/
theorem serialise_ofBytes {body : List Byte} (h : body.length = 69) : (Sched.ofBytes body).serialise = body := by
  have hrow (st : Station) : (Sched.ofBytes body).row st =
      ⟨(halfOf (body.getD 3 0) (body.getD 4 0)).getLsbD st.val, (body.getD (5 + st.val) 0).toNat,
        (body.getD (21 + 3 * st.val) 0).toNat, (body.getD (22 + 3 * st.val) 0).toNat,
        (body.getD (23 + 3 * st.val) 0).toNat⟩ := by
    rw [Sched.row, Sched.ofBytes, stations_map_getD]
  have hbytes : (Sched.ofBytes body).serialise = (List.range 69).map (body.getD · 0) := by
    rw [Sched.serialise, memberBits_ofBytes]
    simp only [hrow, natByte_toNat, hiByte_halfOf, loByte_halfOf]
    simp only [Sched.ofBytes, hiByte_halfOf, loByte_halfOf, natByte_toNat]
    rfl
  rw [hbytes, ← h, map_range_getD]

/-- A TABLE that is received has 69 bytes of serialisation (11.1). -/
theorem tableBody_length {p : Profile} {part : CyclePart} {bits : List Bool} {g : TableFrame}
    (h : judgeBits p part bits = some (.table g)) : g.body.length = 69 := by
  obtain ⟨pre, tail, k, body, -, -, hl, hd⟩ := frameOfBits_eq_some ((judgeBits_eq_some _ _ _ _).mp h).1
  unfold decodeBody at hd
  split at hd <;> cases hd
  simp only [FrameKind.bodyLength, List.length_cons] at hl
  simp only [List.length_take]
  omega

/-! ### The bid table -/

theorem bidTableLaw_clear (p : Profile) : BidTableLaw p BidTable.clear := by
  refine ⟨rfl, fun k b h => ?_⟩
  have hrec : BidTable.clear.record k = BidRecord.clear := by
    rw [BidTable.record, BidTable.clear]
    rcases Nat.lt_or_ge k 16 with hk | hk
    · rw [List.getD_eq_getElem _ _ (by simpa using hk), List.getElem_replicate]
    · rw [List.getD_eq_default _ _ (by simpa using hk)]
  rw [hrec] at h
  cases h

theorem BidTable.enter_record_self {k : Nat} {r : BidRecord} {t : BidTable} (h : k < t.records.length) :
    (t.enter k r).record k = r := by
  simp [BidTable.enter, BidTable.record, h]

theorem BidTable.enter_record_of_ne {k i : Nat} (h : i ≠ k) (r : BidRecord) (t : BidTable) :
    (t.enter k r).record i = t.record i := by
  simp [BidTable.enter, BidTable.record, List.getD_eq_getElem?_getD, List.getElem?_set_ne h.symm]

/-- A record entered for slot `k` is a lawful Valid bid of that slot, or no Valid bid at all. -/
theorem bidTableLaw_enter {p : Profile} {k : Nat} {r : BidRecord} {t : BidTable} (h : BidTableLaw p t)
    (hr : ∀ b, r.status = .valid b → b.station.val = k ∧ k < p.lineSize ∧ (b.flag ≠ .none → b.demand = Four.all 0) ∧
      ∀ c : Class, b.demand.get c ≤ p.budget) : BidTableLaw p (t.enter k r) := by
  refine ⟨by simpa [BidTable.enter] using h.1, fun i b hb => ?_⟩
  by_cases hi : i = k
  · subst hi
    by_cases hlen : i < t.records.length
    · rw [BidTable.enter_record_self hlen] at hb
      exact hr b hb
    · rw [BidTable.record, List.getD_eq_default _ _ (by simpa [BidTable.enter] using hlen)] at hb
      cases hb
  · rw [BidTable.enter_record_of_ne hi] at hb
    exact h.2 i b hb

/-- The demands of an accepted bid are at most B, and 0 beside any flag (R48). -/
theorem bidStatus_law {p : Profile} {f : BidFrame} {b : ValidBid} (h : bidStatus p f = .valid b) :
    b.station = f.station ∧ (b.flag ≠ .none → b.demand = Four.all 0) ∧ ∀ c : Class, b.demand.get c ≤ p.budget := by
  unfold bidStatus at h
  split at h
  · rename_i ha
    cases h
    obtain ⟨-, -, h0, h1, h2, h3⟩ := (bidAccepted_iff p f).mp ha
    refine ⟨rfl, fun hflag => ?_, fun c => ?_⟩
    · unfold bidDemand
      split
      · rename_i hn
        exact absurd hn hflag
      all_goals rfl
    · unfold bidDemand
      split
      · fin_cases c
        exacts [h0, h1, h2, h3]
      all_goals simp
  · cases h

end Sys2Proof.Machine
end

section
/-! SUPPORT. A relation between states that every shared operation stays within, once it holds of the few updates that
the operations are made of: the one walk through the operations from which the marks of MGT (R170, R173) and the laws of
the schedule state (R64) follow. -/

namespace Sys2Proof.Machine

/-- The stored values pass the JOIN validation (R167). -/
def Validated (s : State) : Prop := joinValidation s.mgt.profile s.mgt.settings = .none

/-- The schedule state and the bid table lie within their bounds. -/
def TablesLaw (s : State) : Prop :=
  ScheduleBounds s.mgt.profile s.ssu.sched ∧ BidTableLaw s.mgt.profile s.cyc.bids

/-- The own digest describes the schedule state (R65). -/
def DigestLaw (s : State) : Prop := s.ssu.digest = s.ssu.sched.digest

theorem scheduleLaw_iff (s : State) : ScheduleLaw s ↔ TablesLaw s ∧ DigestLaw s :=
  ⟨fun ⟨h1, h2, h3⟩ => ⟨⟨h1, h3⟩, h2⟩, fun ⟨⟨h1, h3⟩, h2⟩ => ⟨h1, h2, h3⟩⟩

/-- The settings are kept, and so are the laws of the schedule state, the bounds under a validated profile. -/
def ScheduleKept (s t : State) : Prop :=
  SettingsKept s t ∧ (DigestLaw s → DigestLaw t) ∧ (Validated s → TablesLaw s → TablesLaw t)

/-- The station state, the event flags and the counters. -/
def marks (s : State) : StationState × EventFlags × Counters := (s.cyc.state, s.mgt.events, s.mgt.counters)

/-- What the laws of the schedule state speak of. -/
def scheduled (s : State) : BidTable × Sched × Half × Profile × LocalSettings :=
  (s.cyc.bids, s.ssu.sched, s.ssu.digest, s.mgt.profile, s.mgt.settings)

theorem ScheduleKept.of_eq {s t : State} (h : scheduled t = scheduled s) : ScheduleKept s t := by
  simp only [scheduled, Prod.mk.injEq] at h
  obtain ⟨hb, hd, hg, hp, hl⟩ := h
  refine ⟨⟨hp, hl⟩, fun hs => ?_, fun _ hs => ?_⟩
  · rw [DigestLaw, hd, hg]; exact hs
  · rw [TablesLaw, hb, hd, hp]; exact hs

theorem ScheduleKept.trans {s t u : State} (h : ScheduleKept s t) (g : ScheduleKept t u) : ScheduleKept s u := by
  obtain ⟨⟨hp, hl⟩, hd, ht⟩ := h
  obtain ⟨⟨gp, gl⟩, gd, gt⟩ := g
  exact ⟨⟨gp.trans hp, gl.trans hl⟩, fun k => gd (hd k), fun hv k => gt (by rw [Validated, hp, hl]; exact hv) (ht hv k)⟩

/-- A new schedule state comes with its digest, and within the bounds. -/
theorem ScheduleKept.of_sched {s t : State} (hm : SettingsKept s t) (hb : t.cyc.bids = s.cyc.bids)
    (hd : t.ssu.digest = t.ssu.sched.digest)
    (h : Validated s → TablesLaw s → ScheduleBounds s.mgt.profile t.ssu.sched) : ScheduleKept s t :=
  ⟨hm, fun _ => hd, fun hv hs => ⟨by rw [hm.1]; exact h hv hs, by rw [hm.1, hb]; exact hs.2⟩⟩

/-- A new bid table is a lawful one. -/
theorem ScheduleKept.of_bids {s t : State} (hm : SettingsKept s t) (hssu : t.ssu = s.ssu)
    (h : BidTableLaw s.mgt.profile s.cyc.bids → BidTableLaw s.mgt.profile t.cyc.bids) : ScheduleKept s t :=
  ⟨hm, fun hs => by rw [DigestLaw, hssu]; exact hs,
    fun _ hs => ⟨by rw [hm.1, hssu]; exact hs.1, by rw [hm.1]; exact h hs.2⟩⟩

/-- A relation that holds of the updates which the shared operations are made of. -/
structure OpRel (R : State → State → Prop) : Prop where
  trans {s t u : State} : R s t → R t u → R s u
  enter (st : StationState) (s : State) : R s (enterState st s)
  raise (e : Event) (s : State) : R s (raiseEvent e s)
  count (c : Counter) (s : State) : R s (countEvent c s)
  unmarked {s t : State} : marks t = marks s → ScheduleKept s t → R s t

namespace OpRel

variable {R : State → State → Prop} (h : OpRel R)
include h

theorem quiet {s t : State} (hm : marks t = marks s) (hs : scheduled t = scheduled s) : R s t :=
  h.unmarked hm (.of_eq hs)

theorem refl (s : State) : R s s := h.quiet rfl rfl

/-- The relation `g` after the relation `k`. -/
theorem after {s t u : State} (g : R t u) (k : R s t) : R s u := h.trans k g

/-! ### Notices, records and contexts -/

theorem of_takeNotice (n : Notice) (s : State) : R s (takeNotice n s) := by
  unfold takeNotice
  split
  · exact h.quiet (by simp [marks]) (by simp [scheduled])
  · exact h.after (h.raise _ _) (h.quiet rfl rfl)

theorem of_takeNotices (ns : List Notice) (s : State) : R s (takeNotices ns s) := by
  unfold takeNotices
  induction ns generalizing s with
  | nil => exact h.refl s
  | cons n ns ih => exact h.trans (h.of_takeNotice n s) (ih _)

theorem of_raiseRefused (k : RefusalCause) (c : Class) (tag : Byte) (s : State) : R s (raiseRefused k c tag s) :=
  h.trans (h.count _ _) (h.of_takeNotice _ _)

theorem of_handOff (r : DeliveredRecord) (s : State) : R s (handOff r s) := by
  unfold handOff offerRecord
  split
  · split
    · exact h.quiet (by simp [marks]) (by simp [scheduled])
    · exact h.after (h.count _ _) (h.quiet rfl rfl)
  · exact h.after (h.count _ _) (h.quiet rfl rfl)

theorem of_abortContext (w : AbortReason) (c : Context) (s : State) : R s (abortContext w c s) := by
  unfold abortContext
  extract_lets table counted
  have hcounted : R s counted := h.after (h.count _ _) (h.quiet rfl rfl)
  split
  · exact h.after (h.of_handOff _ _) (h.trans hcounted (h.quiet rfl rfl))
  · exact h.trans hcounted (h.quiet rfl rfl)

theorem of_abortContexts (w : AbortReason) (cs : List Context) (s : State) : R s (abortContexts w cs s) := by
  have each (l : List Context) (u : State) : R u (l.foldl (fun s c => abortContext w c s) u) := by
    induction l generalizing u with
    | nil => exact h.refl u
    | cons c l ih => exact h.trans (h.of_abortContext w c u) (ih _)
  exact h.after (each _ _) (h.quiet rfl rfl)

theorem of_openContext (t : Time) (f : SegmentFrame) (s : State) : R s (openContext t f s) := by
  unfold openContext
  dsimp only
  split
  · exact h.count _ _
  · split
    · exact h.count _ _
    · split
      · exact h.after (h.of_handOff _ _) (h.quiet rfl rfl)
      · exact h.quiet rfl rfl

theorem of_firstSegment (t : Time) (f : SegmentFrame) (s : State) : R s (firstSegment t f s) := by
  unfold firstSegment
  extract_lets superseded
  have hsuperseded : R s superseded := by
    unfold superseded
    split
    · exact h.of_abortContext _ _ _
    · exact h.refl s
  split
  · exact h.trans hsuperseded (h.of_openContext _ _ _)
  · exact hsuperseded

theorem of_laterSegment (t : Time) (f : SegmentFrame) (s : State) : R s (laterSegment t f s) := by
  unfold laterSegment
  split
  · exact h.refl s
  · split
    · dsimp only
      split
      · exact h.after (h.of_handOff _ _) (h.quiet rfl rfl)
      · exact h.quiet rfl rfl
    · exact h.of_abortContext _ _ _

theorem of_takeSegment (t : Time) (f : SegmentFrame) (s : State) : R s (takeSegment t f s) := by
  unfold takeSegment
  split
  · exact h.refl s
  · split
    · exact h.of_firstSegment t f s
    · exact h.of_laterSegment t f s

theorem of_takeAbort (f : AbortFrame) (s : State) : R s (takeAbort f s) := by
  unfold takeAbort
  (repeat' split) <;> first
    | exact h.refl s
    | exact h.of_abortContext _ _ _

theorem of_staleExpiry (t : Time) (src : Station) (cls : Class) (s : State) : R s (staleExpiry t src cls s) := by
  unfold staleExpiry
  (repeat' split) <;> first
    | exact h.refl s
    | exact h.of_abortContext _ _ _

/-! ### Messages -/

theorem of_messageEnd (e : MessageEnd) (s : State) : R s (messageEnd e s) := by
  have dropped (cause : RefusalCause) (cls : Class) : R s (dropMessage cause cls s) := by
    unfold dropMessage
    split
    · exact h.quiet rfl rfl
    · exact h.after (h.of_raiseRefused _ _ _ _) (h.quiet rfl rfl)
  unfold messageEnd
  split
  · exact h.refl s
  · exact h.after (h.of_raiseRefused _ _ _ _) (h.quiet rfl rfl)
  · split
    · exact h.quiet rfl rfl
    · exact dropped _ _
    · exact dropped _ _

theorem of_headerTaken (f : FirstHead) (tag : Byte) (len : Nat) (s : State) : R s (headerTaken f tag len s) := by
  unfold headerTaken
  split <;> exact h.quiet rfl rfl

theorem of_payloadTaken (w : Word) (s : State) : R s (payloadTaken w s) := by
  unfold payloadTaken
  split <;> exact h.quiet rfl rfl

theorem of_setParser {s t : State} (p : Parser) (k : R s t) : R s (setParser p t) := h.trans k (h.quiet rfl rfl)

theorem of_takeIngressWord (kind : WordKind) (w : Word) (s : State) : R s (takeIngressWord kind w s) := by
  unfold takeIngressWord takeHead takeBody takeTail takeBreak
  split <;> split <;> (try split) <;> first
    | exact h.refl s
    | exact h.of_setParser _ (h.refl s)
    | exact h.of_raiseRefused _ _ _ _
    | exact h.of_setParser _ (h.of_headerTaken _ _ _ _)
    | exact h.of_setParser _ (h.of_payloadTaken _ _)
    | exact h.of_setParser _ (h.of_messageEnd _ _)
    | exact h.of_setParser _ (h.of_raiseRefused _ _ _ _)
    | exact h.of_setParser _ (h.trans (h.of_payloadTaken _ _) (h.of_messageEnd _ _))

theorem of_frameSupplied (c : Class) (s : State) : R s (frameSupplied c s) := by
  have sent (d : Descriptor) (rest : List Descriptor) : R s (segmentSent c d rest s) := by
    unfold segmentSent
    dsimp only
    split
    · split
      · exact h.after (h.of_takeNotice _ _) (h.quiet rfl rfl)
      · exact h.quiet rfl rfl
    · exact h.quiet rfl rfl
  unfold frameSupplied
  split
  · exact h.refl s
  · split
    · exact h.refl s
    · exact h.quiet rfl rfl
    · exact sent _ _
    · exact sent _ _

theorem of_flushQueue (c : Class) (s : State) : R s (flushQueue c s) :=
  h.after (h.of_takeNotices _ _) (h.quiet rfl rfl)

theorem of_endQueue (c : Class) (s : State) : R s (endQueue c s) :=
  h.after (h.of_takeNotices _ _) (h.quiet rfl rfl)

theorem of_txqSessionEnd (s : State) : R s (txqSessionEnd s) :=
  h.trans (h.trans (h.trans (h.of_endQueue 0 s) (h.of_endQueue 1 _)) (h.of_endQueue 2 _)) (h.of_endQueue 3 _)

/-! ### Entries into station states -/

theorem of_rasSessionEnd (s : State) : R s (rasSessionEnd s) := h.of_abortContexts _ _ _

theorem of_endQueues (s : State) : R s (endQueues s) := by
  unfold endQueues
  split
  · exact h.of_txqSessionEnd s
  · split
    · exact h.after (h.of_rasSessionEnd _) (h.after (h.of_txqSessionEnd _) (h.quiet rfl rfl))
    · exact h.after (h.of_txqSessionEnd _) (h.after (h.of_rasSessionEnd _) (h.quiet rfl rfl))

theorem of_clearSched (s : State) : R s (clearSched s) := by
  have hsched : (clearSched s).ssu.sched = Sched.empty := by simp
  have hdigest : (clearSched s).ssu.digest = Sched.empty.digest := by simp
  refine h.unmarked rfl (.of_sched ⟨by simp, by simp⟩ (by simp) (by rw [hsched, hdigest]) fun _ _ => ?_)
  rw [hsched]
  exact scheduleBounds_empty _

/-- The bid table is cleared, among other updates of CYC (R47). -/
theorem of_bids_clear {s t : State} (hm : marks t = marks s) (hs : SettingsKept s t) (hssu : t.ssu = s.ssu)
    (hb : t.cyc.bids = BidTable.clear) : R s t :=
  h.unmarked hm (.of_bids hs hssu fun _ => by rw [hb]; exact bidTableLaw_clear _)

theorem of_endSession (s : State) : R s (endSession s) := by
  have cleared : R s (clearSched (dropGrants (endQueues s))) :=
    h.trans (h.trans (h.of_endQueues s) (h.quiet (t := dropGrants _) rfl rfl)) (h.of_clearSched _)
  refine h.trans cleared ?_
  unfold endSession
  exact h.of_bids_clear (by simp [marks, endCyc]) ⟨by simp, by simp⟩ (by simp) (by simp [endCyc])

theorem of_enterStopped (s : State) : R s (enterStopped s) := h.trans (h.enter _ _) (h.of_endSession _)

theorem of_enterHalted (cause : HaltCause) (s : State) : R s (enterHalted cause s) := by
  unfold enterHalted
  split
  · exact h.refl s
  · refine h.trans (h.trans (h.enter .halted s) (h.raise .halt _)) ?_
    exact h.after (h.of_endSession _) (h.quiet rfl rfl)

theorem of_enterListen (t : Time) (s : State) : R s (enterListen t s) := by
  unfold enterListen
  split
  · exact h.of_enterStopped s
  · refine h.trans (h.trans (h.enter .listen s) (h.quiet (t := dropGrants _) rfl rfl)) ?_
    exact h.trans (h.of_clearSched _) (h.quiet rfl rfl)

theorem of_stepLoss (t : Time) (s : State) : R s (stepLoss t s) :=
  h.after (h.of_enterListen _ _) (h.trans (h.raise _ _) (h.count _ _))

theorem of_enterInStep (s : State) : R s (enterInStep s) := h.trans (h.enter _ _) (h.quiet rfl rfl)

end OpRel

end Sys2Proof.Machine
end

section
/-! SUPPORT. The walk through the operations of the line and through the commands: each stays within every relation that
holds of the updates it is made of (`OpRel`). -/

namespace Sys2Proof.Machine

/-- The own number is below N, and the silence limit is above 0, where the stored values pass the validation (R167). -/
theorem Validated.bounds {s : State} (h : Validated s) : (ownNumber s).val < s.mgt.profile.lineSize ∧ 0 < s.mgt.profile.limit := by
  obtain ⟨-, -, -, -, hlimit, hown, -⟩ := (joinValidation_eq_none _ _).mp h
  exact ⟨hown, by omega⟩

/-- The kinds of BID that LIF hands on carry the number of a station in use, in a bid slot the slot's (R4). -/
theorem judgeBits_bid {p : Profile} {part : CyclePart} {bits : List Bool} {f : BidFrame}
    (h : judgeBits p part bits = some (.bid f)) :
    f.station.val < p.lineSize ∧ ∀ k, part = .bidSlot k → f.station.val = k := by
  obtain ⟨-, -, hf⟩ := (judgeBits_eq_some _ _ _ _).mp h
  simp only [fieldsOk, Bool.and_eq_true, decide_eq_true_eq] at hf
  refine ⟨hf.1, ?_⟩
  rintro k rfl
  exact beq_iff_eq.mp hf.2

namespace OpRel

variable {R : State → State → Prop} (h : OpRel R)
include h

/-! ### SSU and the bid table -/

theorem of_removeSources (rs : List Station) (s : State) : R s (removeSources rs s) := h.of_abortContexts _ _ _

theorem of_loadTable (f : TableFrame) (s : State) (hb : f.body.length = 69)
    (hp : tablePasses s.mgt.profile f = true) : R s (loadTable f s) := by
  obtain ⟨-, hdigest, hwithin, -⟩ := (tablePasses_iff _ _).mp hp
  unfold loadTable
  extract_lets after removed own ssu loaded counted
  have hloaded : R s loaded :=
    h.unmarked rfl (.of_sched ⟨rfl, rfl⟩ rfl (hdigest.trans (by rw [Sched.digest_eq, serialise_ofBytes hb]))
      fun _ _ => scheduleBounds_ofBytes hwithin)
  have hcounted : R loaded counted := h.trans (h.of_removeSources removed loaded) (h.count _ _)
  exact h.trans (h.trans hloaded hcounted) (h.quiet rfl rfl)

theorem of_takeTable (f : TableFrame) (s : State) (hb : f.body.length = 69) : R s (takeTable f s) := by
  unfold takeTable
  split
  · split
    · rename_i hp
      exact h.of_loadTable f s hb hp
    · exact h.count _ _
  · exact h.refl s

/-- A record that is no Valid one is entered (R47). -/
theorem of_enterRecord (k : Nat) (r : BidRecord) (s : State) (hr : ∀ b, r.status ≠ .valid b) :
    R s (enterRecord k r s) :=
  h.unmarked rfl (.of_bids ⟨rfl, rfl⟩ rfl fun hs => bidTableLaw_enter hs fun b hb => absurd hb (hr b))

theorem of_enterBid (k : Nat) (own : Bool) (f : BidFrame) (s : State) (hk : f.station.val = k)
    (hn : k < s.mgt.profile.lineSize) : R s (enterBid k own f s) := by
  have entered (r : BidRecord) (hr : r.status = bidStatus s.mgt.profile f) : R s (enterRecord k r s) :=
    h.unmarked rfl (.of_bids ⟨rfl, rfl⟩ rfl fun hs => bidTableLaw_enter hs fun b hb => by
      obtain ⟨hst, hflag, hdemand⟩ := bidStatus_law (hr.symm.trans hb)
      exact ⟨by rw [hst, hk], hn, hflag, hdemand⟩)
  unfold enterBid
  dsimp only
  split
  · exact entered _ rfl
  · exact h.trans (entered _ rfl) (h.count _ _)

theorem of_goBlind (s : State) : R s (goBlind s) := by
  unfold goBlind
  split
  · exact h.trans (h.enter _ _) (h.count _ _)
  · exact h.refl s

/-! ### The end of the announcement phase -/

theorem of_commit (o : Announcement) (s : State) (ho : ∀ st ∈ o.eligible, (s.ssu.sched.row st).member = true) :
    R s (commit o s) := by
  unfold commit
  extract_lets p before accounts after granted ssu formed
  have hformed : formed.ssu.sched = after ∧ formed.ssu.digest = after.digest ∧ formed.cyc = s.cyc ∧
      formed.mgt = s.mgt := by
    unfold formed
    split <;> simp [granted, ssu]
  obtain ⟨hsched, hdigest, hcyc, hmgt⟩ := hformed
  refine h.trans (h.unmarked ?_ (.of_sched ?_ ?_ ?_ fun hv hs => ?_)) (h.of_removeSources _ _)
  · rw [marks, hcyc, hmgt]; rfl
  · rw [SettingsKept, hmgt]; exact ⟨rfl, rfl⟩
  · rw [hcyc]
  · rw [hsched, hdigest]
  · rw [hsched]
    exact scheduleBounds_committed hs.1 hs.2 (settleAccounts_law _ _ (openAccounts_law hs.1 ho)) hv.bounds.2
      (nextPointer_le hs.1.2.1)

theorem of_verdict (o : Announcement) (s : State) (ho : ∀ st ∈ o.eligible, (s.ssu.sched.row st).member = true) :
    R s (verdict o s) := by
  unfold verdict
  split
  · extract_lets cyc committed inStep
    have hcommitted : R s committed := h.after (h.of_commit _ _ ho) (h.quiet rfl rfl)
    split
    · exact h.trans (h.trans hcommitted (h.of_enterInStep _)) (h.quiet rfl rfl)
    · exact hcommitted
  · extract_lets cyc kept outOfStep
    have hkept : R s kept := h.quiet rfl rfl
    split
    · exact h.trans (h.trans hkept (h.enter _ _)) (h.quiet rfl rfl)
    · exact hkept

theorem of_endAnnouncement (t : Time) (s : State) : R s (endAnnouncement t s) := by
  have fixed {u : State} (k : R s u) : R s (fixDataPhase t u) :=
    h.trans k (h.quiet (by simp [marks]) (by simp [scheduled]))
  unfold endAnnouncement
  refine fixed ?_
  split
  · split
    · exact h.trans (h.enter .joining s) (h.quiet rfl rfl)
    · exact h.refl s
  · split
    · exact h.of_verdict _ s announcement_eligible
    · exact h.refl s

/-! ### The cycle boundary -/

theorem of_joinCycleEnds (t : Time) (s : State) : R s (boundaryStep.joinCycleEnds t s) := by
  unfold boundaryStep.joinCycleEnds
  dsimp only
  split
  · split
    · exact h.after (h.of_enterHalted _ _) (h.quiet rfl rfl)
    · exact h.after (h.of_enterListen _ _) (h.quiet rfl rfl)
  · exact h.quiet rfl rfl

theorem of_boundaryStep (t : Time) (s : State) : R s (boundaryStep t s) := by
  have member : R s (boundaryStep.settleMember s) := h.trans (h.of_enterInStep s) (h.quiet rfl rfl)
  have notMember : R s (boundaryStep.settleNotMember s) := h.trans (h.enter .joining s) (h.quiet rfl rfl)
  unfold boundaryStep
  split
  · exact member
  · exact member
  · exact member
  · exact notMember
  · exact notMember
  · exact h.after (h.of_joinCycleEnds _ _) (h.quiet rfl rfl)
  · exact h.of_joinCycleEnds _ _
  · exact h.trans (h.enter .outOfStep s) (h.quiet rfl rfl)
  · dsimp only
    split
    · exact h.after (h.of_stepLoss _ _) (h.quiet rfl rfl)
    · exact h.quiet rfl rfl
  · exact h.of_enterStopped _
  all_goals exact h.refl s

theorem of_clearCycle (s : State) : R s (clearCycle s) :=
  h.trans (h.quiet (t := dropGrants s) rfl rfl) (h.of_bids_clear rfl ⟨rfl, rfl⟩ rfl rfl)

theorem of_takeBoundary (t : Time) (s : State) : R s (takeBoundary t s) :=
  h.after (h.of_boundaryStep _ _) (h.of_clearCycle s)

theorem of_beginGap (start : Time) (s : State) : R s (beginGap start s) :=
  h.after (h.of_takeBoundary _ _) (h.quiet rfl rfl)

/-! ### Bids and STARTs -/

theorem of_compareProfile (check : Byte) (s : State) : R s (compareProfile check s) := by
  unfold compareProfile
  split
  · split
    · exact h.quiet rfl rfl
    · exact h.of_enterHalted _ _
  · exact h.refl s

theorem of_checkDuplicate (st : Station) (own : Bool) (s : State) : R s (checkDuplicate st own s) := by
  unfold checkDuplicate
  split
  · exact h.of_enterHalted _ _
  · exact h.refl s

theorem of_countEcho (passed : Bool) (s : State) : R s (countEcho passed s) := by
  unfold countEcho
  dsimp only
  split
  · split
    · exact h.quiet rfl rfl
    · split
      · exact h.after (h.of_enterHalted _ _) (h.quiet rfl rfl)
      · exact h.quiet rfl rfl
  · exact h.refl s

theorem of_leaveAfterBid (own : Option Frame) (s : State) : R s (leaveAfterBid own s) := by
  unfold leaveAfterBid
  split
  · exact h.enter _ _
  · exact h.refl s

/-! ### Slot reports -/

theorem of_enterBidReport (k : Nat) (own : Option Frame) (passed : Bool) (c : SlotClass) (s : State)
    (hc : ∀ f r, c = .valid (.bid f) r → f.station.val = k ∧ k < s.mgt.profile.lineSize) :
    R s (enterBidReport k own passed c s) := by
  have echoed (b : Bool) {u : State} (g : R s u) : R s (if own.isSome then countEcho b u else u) := by
    split
    · exact h.trans g (h.of_countEcho _ _)
    · exact g
  unfold enterBidReport
  split
  · exact h.of_enterRecord _ _ _ (by simp)
  · rename_i f r
    obtain ⟨hst, hn⟩ := hc f r rfl
    have entered : R s (enterBid k own.isSome f (refreshCycle k r s)) :=
      h.after (h.of_enterBid _ _ _ _ hst hn) (h.quiet rfl rfl)
    have judged := echoed true (h.trans entered (h.of_goBlind _))
    exact h.after (h.of_leaveAfterBid _ _) (h.after (h.of_checkDuplicate _ _ _) (h.trans judged (h.of_compareProfile _ _)))
  · extract_lets entered blinded
    have hentered : R s entered := h.trans (h.of_enterRecord _ _ _ (by simp)) (h.count _ _)
    have hblinded : R s blinded := by
      unfold blinded
      split
      · exact hentered
      · exact h.trans hentered (h.of_goBlind _)
    exact h.trans (echoed passed hblinded) (h.of_leaveAfterBid _ _)

theorem of_endBidSlot (k : Nat) (t : Time) (s : State) : R s (endBidSlot k t s) := by
  unfold endBidSlot
  split
  · exact h.refl s
  · split
    · exact h.quiet rfl rfl
    · exact h.of_endAnnouncement _ _

theorem of_dropSlotEcho (s : State) : R s (dropSlotEcho s) := h.quiet rfl rfl

theorem of_bidSlotReport (k : Nat) (a : Time) (line : SpanLine) (s : State) : R s (bidSlotReport k a line s) := by
  unfold bidSlotReport
  extract_lets own nominal spanEnd c passed dropped entered
  have hc : ∀ f r, c = .valid (.bid f) r → f.station.val = k ∧ k < s.mgt.profile.lineSize := by
    intro f r hf
    obtain ⟨hn, hk⟩ := judgeBits_bid ((classifySlot_eq_valid _ _ _ _ _ _ _ _).mp hf).2.1
    exact ⟨hk k rfl, hk k rfl ▸ hn⟩
  have hentered : R s entered := by
    unfold entered
    split
    · exact h.trans (h.of_dropSlotEcho s) (h.of_enterBidReport _ _ _ _ _ hc)
    · exact h.of_dropSlotEcho s
  exact h.trans hentered (h.of_endBidSlot _ _ _)

theorem of_handDataFrame (t : Time) (f : Frame) (s : State) (hf : ∀ g, f = .table g → g.body.length = 69) :
    R s (handDataFrame t f s) := by
  cases f with
  | segment g => exact h.of_takeSegment _ _ _
  | abort g => exact h.of_takeAbort _ _
  | table g => exact h.of_takeTable g s (hf g rfl)
  | empty g => exact h.refl s
  | start st check => exact h.refl s
  | bid g => exact h.refl s

theorem of_dataSlotReport (isOpen : Bool) (i : Nat) (d : Time) (line : SpanLine) (s : State) :
    R s (dataSlotReport isOpen i d line s) := by
  unfold dataSlotReport
  extract_lets own nominal heard block spanEnd next part c dropped
  have hdropped : R s dropped := h.quiet rfl rfl
  generalize hc : c = slot
  cases slot with
  | silent => exact hdropped
  | damaged => exact h.trans hdropped (h.count _ _)
  | valid f r =>
    dsimp only
    have hfixed : R s (fixEndSlotted i next f r dropped) := h.trans hdropped (h.quiet rfl rfl)
    split
    · exact hfixed
    · refine h.trans hfixed (h.of_handDataFrame _ _ _ fun g hg => ?_)
      subst hg
      exact tableBody_length ((classifySlot_eq_valid _ _ _ _ _ _ _ _).mp hc).2.1

theorem of_slotReport (line : SpanLine) (s : State) : R s (slotReport line s) := by
  unfold slotReport
  split
  · exact h.refl s
  · split
    · split
      · exact h.refl s
      · unfold gapReport
        dsimp only
        split
        · exact h.after (h.count _ _) (h.quiet rfl rfl)
        · exact h.quiet rfl rfl
    · exact h.of_bidSlotReport _ _ _ _
    · split
      · exact h.of_dataSlotReport _ _ _ _ _
      · exact h.refl s
    · exact h.of_dataSlotReport _ _ _ _ _
    · exact h.refl s

/-! ### Unslotted receptions -/

theorem of_enterPassedSlots (a : Time) (s : State) (n : Nat) : R s (enterPassedSlots a s n) := by
  induction n with
  | zero => exact h.refl s
  | succ n ih => exact h.trans ih (h.of_enterRecord _ _ _ fun b => by dsimp only; split <;> simp)

theorem of_beginCycleByBid (own : Bool) (f : BidFrame) (r : Reception) (s : State)
    (hf : f.station.val < s.mgt.profile.lineSize) : R s (beginCycleByBid own f r s) := by
  unfold beginCycleByBid
  extract_lets a cyc timed begun entered blinded counted
  have hbegun : R s begun := by
    have htimed : R s timed := h.quiet rfl rfl
    unfold begun
    split
    · exact h.trans htimed (h.of_clearCycle _)
    · exact h.trans htimed (h.of_takeBoundary _ _)
  have hprofile : begun.mgt.profile = s.mgt.profile := by
    unfold begun
    split <;> simp [timed]
  split
  · exact hbegun
  · have hentered : R s entered := by
      refine h.after (h.of_enterBid _ _ _ _ rfl ?_) (h.trans hbegun (h.of_enterPassedSlots a begun _))
      simpa [hprofile] using hf
    have hcounted : R s counted := by
      have hblinded : R s blinded := h.trans hentered (h.of_goBlind _)
      unfold counted
      split
      · exact h.trans hblinded (h.of_countEcho _ _)
      · exact hblinded
    exact h.after (h.of_checkDuplicate _ _ _) (h.trans hcounted (h.of_compareProfile _ _))

theorem of_fixCycleByStart (t : Time) (s : State) : R s (fixCycleByStart t s) :=
  h.of_bids_clear rfl ⟨rfl, rfl⟩ rfl rfl

theorem of_fixEndUnslotted (f : Frame) (r : Reception) (s : State) : R s (fixEndUnslotted f r s) := by
  unfold fixEndUnslotted
  dsimp only
  split <;> exact h.quiet rfl rfl

theorem of_takeUnslotted {part : CyclePart} {bits : List Bool} (own : Bool) (f : Frame) (r : Reception) (s : State)
    (hf : judgeBits s.mgt.profile part bits = some f) : R s (takeUnslotted own f r s) := by
  unfold takeUnslotted
  split
  · exact h.of_beginCycleByBid _ _ _ _ (judgeBits_bid hf).1
  · split
    · exact h.refl s
    · exact h.after (h.of_checkDuplicate _ _ _) (h.after (h.of_compareProfile _ _) (h.of_fixCycleByStart _ _))
  · exact h.after (h.of_takeSegment _ _ _) (h.of_fixEndUnslotted _ _ _)
  · exact h.after (h.of_takeAbort _ _) (h.of_fixEndUnslotted _ _ _)
  · exact h.of_fixEndUnslotted _ _ _
  · exact h.after (h.of_takeTable _ _ (tableBody_length hf)) (h.of_fixEndUnslotted _ _ _)

theorem of_startEchoFailed (t : Time) (s : State) : R s (startEchoFailed t s) :=
  h.after (h.of_enterListen _ _) (h.quiet (by simp [marks]) (by simp [scheduled]))

theorem of_judgeStartEcho (e : EchoWatch) (f : Option Frame) (r : Reception) (s : State) :
    R s (judgeStartEcho e f r s) := by
  unfold judgeStartEcho
  extract_lets passed counted lif judged
  have hcounted : R s counted := by
    unfold counted
    split
    · exact h.count _ _
    · exact h.refl s
  split
  · exact h.trans hcounted (h.quiet rfl rfl)
  · split
    · split <;> exact h.trans hcounted (h.quiet rfl rfl)
    · exact h.after (h.of_startEchoFailed _ _) (h.trans hcounted (h.quiet rfl rfl))

theorem of_finishEcho (f : Option Frame) (s : State) : R s (finishEcho f s) := by
  unfold finishEcho
  extract_lets counted
  have hcounted : R s counted := by
    unfold counted
    split
    · exact h.count _ _
    · exact h.refl s
  split
  · split
    · exact hcounted
    · exact h.trans hcounted (h.quiet rfl rfl)
  · exact h.trans hcounted (h.quiet rfl rfl)

theorem of_takeReception {part : CyclePart} {bits : List Bool} (own f : Option Frame) (r : Reception) (s : State)
    (hf : judgeBits s.mgt.profile part bits = f) : R s (takeReception own f r s) := by
  unfold takeReception
  split
  · exact h.count _ _
  · exact h.of_takeUnslotted _ _ _ _ hf

theorem of_unslottedReception (r : Reception) (s : State) : R s (unslottedReception r s) := by
  unfold unslottedReception
  split
  · exact h.refl s
  · exact h.of_finishEcho _ _
  · split
    · exact h.refl s
    · split
      · exact h.of_judgeStartEcho _ _ _ _
      · extract_lets f
        split
        · split
          · exact h.trans (h.of_dropSlotEcho s) (h.of_takeReception _ _ _ _ rfl)
          · exact h.of_takeReception _ _ _ _ rfl
        · exact h.refl s

end OpRel
end Sys2Proof.Machine
end

section
/-! SUPPORT. The walk through the commands, and the two relations it is taken for. -/

namespace Sys2Proof.Machine

namespace OpRel

variable {R : State → State → Prop} (h : OpRel R)
include h

theorem of_joinCommand (t : Time) (s : State) : R s (joinCommand t s) := by
  unfold joinCommand
  dsimp only
  split
  · split
    · exact h.after (h.of_enterListen _ _) (h.quiet rfl rfl)
    · exact h.after (h.raise _ _) (h.quiet rfl rfl)
  · exact h.raise _ _

theorem of_leaveCommand (s : State) : R s (leaveCommand s) := by
  unfold leaveCommand
  split <;> first
    | exact h.quiet rfl rfl
    | exact h.of_enterStopped _
    | exact h.raise _ _

theorem of_flushCommand (c : Class) (s : State) : R s (flushCommand c s) := by
  unfold flushCommand
  split
  · exact h.raise _ _
  · exact h.of_flushQueue c s

theorem of_endRead {s t : State} (k : R (endRead s) t) : R s t :=
  h.trans (h.quiet (t := endRead s) rfl rfl) k

theorem of_writeRegister (t : Time) (addr : BitVec 7) (v : Half) (s : State)
    (hr : isReset (.registerWrite t addr v) = false)
    (hset : isSettingAddr addr.toNat = true → s.cyc.state = .config → R s (writeRegister t addr v s)) :
    R s (writeRegister t addr v s) := by
  rcases writeRegister_cases t addr v s with
    ⟨-, e⟩ | e | ⟨c, e⟩ | ⟨hreset, -⟩ | e | ⟨-, e⟩ | ⟨ha, hs, -⟩ | e
  · exact e ▸ h.of_joinCommand t s
  · exact e ▸ h.of_leaveCommand s
  · exact e ▸ h.of_flushCommand c s
  · exact absurd (hreset.symm.trans hr) (by decide)
  · exact e ▸ h.raise .cmdRef s
  · exact e ▸ h.quiet rfl rfl
  · exact hset ha hs
  · exact e.symm ▸ h.refl s

theorem of_carrierDetect (t : Time) (level : Bool) (s : State) : R s (nextState (.carrierDetect t level) s) := by
  rw [nextState_carrierDetect]
  split
  · exact h.refl s
  · split
    · unfold carrierRises
      dsimp only
      split
      · exact h.after (h.of_enterListen _ _) (h.quiet rfl rfl)
      · split <;> exact h.quiet rfl rfl
    · unfold carrierFalls
      dsimp only
      split <;> exact h.quiet rfl rfl

theorem of_settleStartEcho (t : Time) (s : State) : R s (settleStartEcho t s) := by
  unfold settleStartEcho
  dsimp only
  (repeat' split) <;> first
    | exact h.refl s
    | exact h.quiet rfl rfl
    | exact h.after (h.of_startEchoFailed _ _) (h.quiet rfl rfl)

theorem of_foundLine (t : Time) (s : State) : R s (foundLine t s) := by
  have fixed : R s (fixCycleByStart t (enterInStep s)) := h.after (h.of_fixCycleByStart _ _) (h.of_enterInStep s)
  have hmgt : (fixCycleByStart t (enterInStep s)).mgt.profile = s.mgt.profile ∧
      (fixCycleByStart t (enterInStep s)).mgt.settings = s.mgt.settings := ⟨by simp, by simp⟩
  unfold foundLine
  refine h.trans fixed (h.unmarked rfl (.of_sched ⟨rfl, rfl⟩ rfl (by simp) fun hv _ => ?_))
  have hs : Validated s := by rw [Validated, ← hmgt.1, ← hmgt.2]; exact hv
  rw [hmgt.1, withSched_sched]
  exact scheduleBounds_founding hs.bounds.1 hs.bounds.2

theorem of_afterTransmission (t : Time) (f : Frame) (s : State) : R s (afterTransmission t f s) := by
  unfold afterTransmission
  extract_lets counted
  have hcounted : R s counted := by
    unfold counted
    split
    · exact h.count _ _
    · exact h.refl s
  refine h.trans hcounted ?_
  split
  · split
    · exact h.quiet rfl rfl
    · exact h.refl _
  · split
    · exact h.after (h.of_settleStartEcho _ _) (h.of_foundLine _ _)
    · split
      · exact h.quiet rfl rfl
      · exact h.refl _

theorem of_lineLoss (t : Time) (s : State) : R s (lineLoss t s) := by
  unfold lineLoss
  split <;> first
    | exact h.refl _
    | exact h.of_stepLoss _ _
    | exact h.of_enterStopped _

/-- Every command stays within the relation, but for resets, completed reads, and a setting written in CONFIG. -/
theorem of_nextState (c : Instr) (s : State) (hreset : isReset c = false) (hevents : c ≠ .eventsRead)
    (hcounter : ∀ k, c ≠ .counterRead k)
    (hset : ∀ w a v, c = .registerWrite w a v → isSettingAddr a.toNat = true → s.cyc.state = .config →
      R (endRead s) (writeRegister w a v (endRead s))) : R s (nextState c s) := by
  cases c with
  | powerOn => cases hreset
  | resetPinAssert => cases hreset
  | resetPinRelease => exact h.quiet rfl rfl
  | cleanUpComplete => rw [nextState_cleanUpComplete]; split; exacts [h.refl s, h.quiet rfl rfl]
  | join t => rw [nextState_join]; split; exacts [h.refl s, h.of_endRead (h.of_joinCommand _ _)]
  | leave => rw [nextState_leave]; split; exacts [h.refl s, h.of_endRead (h.of_leaveCommand _)]
  | flush c => rw [nextState_flush]; split; exacts [h.refl s, h.of_endRead (h.of_flushCommand _ _)]
  | softReset => cases hreset
  | unknownCommand code =>
    rw [nextState_unknownCommand]
    split
    · exact h.refl s
    · split
      · exact h.of_endRead (h.raise _ _)
      · exact h.refl s
  | registerWrite t addr v =>
    rw [nextState_registerWrite]
    split
    · exact h.refl s
    · exact h.of_endRead (h.of_writeRegister t addr v _ hreset (hset t addr v rfl))
  | eventsRead => exact absurd rfl hevents
  | counterRead k => exact absurd rfl (hcounter k)
  | carrierDetect t level => exact h.of_carrierDetect t level s
  | listenTimerExpiry t =>
    by_cases hdue : s.cyc.state = .listen ∧ ∃ since, s.cyc.listenTimer = .running since ∧ since + listenTimeout ≤ t
    · obtain ⟨hs, since, hl, hd⟩ := hdue
      rw [nextState_listenTimerExpiry_of_due hs hl hd]
      exact h.trans (h.enter .starting s) (h.quiet rfl rfl)
    · rw [nextState_listenTimerExpiry_of_not_due fun hs since hl hd => hdue ⟨hs, since, hl, hd⟩]
      exact h.refl s
  | coldStartDelayEnd t => rw [nextState_coldStartDelayEnd]; split; exacts [h.quiet rfl rfl, h.refl s]
  | transmissionEnd t =>
    cases htx : s.lif.tx with
    | none => rw [nextState_transmissionEnd_idle htx]; exact h.refl s
    | some f => rw [nextState_transmissionEnd htx]; exact h.after (h.of_afterTransmission _ _ _) (h.quiet rfl rfl)
  | lineLostTimerExpiry t =>
    rw [nextState_lineLostTimerExpiry]
    split
    · exact h.after (h.of_lineLoss _ _) (h.quiet (by simp [marks]) (by simp [scheduled]))
    · exact h.refl s
  | ownBid => rw [nextState_ownBid]; split; exacts [h.quiet rfl rfl, h.refl s]
  | slotReport line => exact h.of_slotReport line s
  | unslottedReception r => exact h.of_unslottedReception r s
  | cycleBoundary =>
    cases hg : nextGap s.cyc with
    | none => rw [nextState_cycleBoundary_idle hg]; exact h.refl s
    | some start => rw [nextState_cycleBoundary hg]; exact h.of_beginGap _ _
  | tableSend =>
    cases hf : s.ssu.tableOut with
    | none => rw [nextState_tableSend_idle (.inl hf)]; exact h.refl s
    | some f =>
      cases hg : s.alc.grants with
      | none => rw [nextState_tableSend_idle (.inr hg)]; exact h.refl s
      | some g => rw [nextState_tableSend hf hg]; split; exacts [h.quiet rfl rfl, h.refl s]
  | frameRequest =>
    cases hg : ownGrantedSlot s with
    | none => rw [nextState_frameRequest_idle hg]; exact h.refl s
    | some g =>
      rw [nextState_frameRequest hg]
      split
      · exact h.trans (h.of_frameSupplied _ _) (h.quiet rfl rfl)
      · exact h.refl s
  | staleTimerExpiry t src cls => exact h.of_staleExpiry t src cls s
  | ingressWord kind w => rw [nextState_ingressWord]; split; exacts [h.of_takeIngressWord _ _ _, h.refl s]
  | egressWordTaken =>
    rw [nextState_egressWordTaken]
    split
    · exact h.quiet (by simp [marks]) (by simp [scheduled])
    · exact h.refl s
  | readCapture addr => rw [nextState_readCapture]; split; exacts [h.refl s, h.quiet rfl rfl]

end OpRel

/-! ### The laws of the schedule state -/

/-- The shared operations keep the laws of the schedule state. -/
theorem scheduleKept_opRel : OpRel ScheduleKept where
  trans := .trans
  enter st s := .of_eq (by simp [scheduled])
  raise e s := .of_eq rfl
  count c s := .of_eq rfl
  unmarked _ := id

theorem digestLaw_reset : Ssu.reset.digest = Ssu.reset.sched.digest := by
  have hbytes : Sched.empty.serialise = List.replicate 69 0 := by decide
  rw [Ssu.reset, Sched.digest_eq, hbytes]

/-- What CONFIG, STOPPED and HALTED hold lies within the bounds of every profile (R47, R64). -/
theorem tablesLaw_of_inactive {s : State} (h : SessionLaw s) (hi : s.cyc.state.inactive = true) : TablesLaw s := by
  obtain ⟨-, -, hsched, -, -, -, -, -, -, -, -, -, -, -, -, -, -, -, hbids, -⟩ := h hi
  rw [TablesLaw, hsched, hbids]
  exact ⟨scheduleBounds_empty _, bidTableLaw_clear _⟩

/-- The own digest stays true under every command but a reset (R65). -/
theorem nextState_digestLaw {c : Instr} {s : State} (hc : isReset c = false) (h : DigestLaw s) :
    DigestLaw (nextState c s) := by
  by_cases hread : c = .eventsRead ∨ ∃ k, c = .counterRead k
  · have hssu : (nextState c s).ssu = s.ssu := by
      rcases hread with rfl | ⟨k, rfl⟩
      · rw [nextState_eventsRead]; split <;> simp
      · rw [nextState_counterRead]; split <;> simp
    rw [DigestLaw, hssu]
    exact h
  · rw [not_or, not_exists] at hread
    by_cases hset : ∃ w a v, c = .registerWrite w a v ∧ isSettingAddr a.toNat = true
    · obtain ⟨w, a, v, rfl, ha⟩ := hset
      rw [nextState_registerWrite]
      have hcommand : a ≠ 0x00 ∧ a ≠ 0x02 := by
        refine ⟨?_, ?_⟩ <;> (rintro rfl; revert ha; decide)
      unfold writeRegister
      rw [if_neg hcommand.1, if_neg hcommand.2]
      (repeat' split) <;> exact h
    · exact (scheduleKept_opRel.of_nextState c s hc hread.1 hread.2 fun w a v e ha =>
        absurd ⟨w, a, v, e, ha⟩ hset).2.1 h

/-- Outside CONFIG the bounds are kept by every command but a reset (R64). -/
theorem nextState_tablesLaw {c : Instr} {s : State} (hc : isReset c = false) (hv : Validated s) (h : TablesLaw s)
    (hset : s.cyc.state = .config → ∀ w a v, c = .registerWrite w a v → isSettingAddr a.toNat = false) :
    TablesLaw (nextState c s) := by
  by_cases hread : c = .eventsRead ∨ ∃ k, c = .counterRead k
  · have hsame : scheduled (nextState c s) = scheduled s := by
      rcases hread with rfl | ⟨k, rfl⟩
      · rw [nextState_eventsRead]; split <;> simp [scheduled]
      · rw [nextState_counterRead]; split <;> simp [scheduled]
    exact (ScheduleKept.of_eq hsame).2.2 hv h
  · rw [not_or, not_exists] at hread
    exact (scheduleKept_opRel.of_nextState c s hc hread.1 hread.2 fun w a v e ha hs =>
      absurd (ha.symm.trans (hset hs w a v e)) (by decide)).2.2 hv h

/-- Every command keeps the laws of the schedule state (R64, R65). -/
theorem nextState_scheduleLaw (c : Instr) {s : State} (hst : StationLaw s) (hp : ProfileLaw s) (h : ScheduleLaw s) :
    ScheduleLaw (nextState c s) := by
  obtain ⟨htables, hdigest⟩ := (scheduleLaw_iff s).mp h
  have inactive (hi : (nextState c s).cyc.state.inactive = true) : TablesLaw (nextState c s) :=
    tablesLaw_of_inactive (nextState_law c hst).2 hi
  rw [scheduleLaw_iff]
  cases hc : isReset c with
  | true =>
    rcases nextState_reset (s := s) hc with e | ⟨hcyc, hssu⟩
    · rw [e]; exact ⟨htables, hdigest⟩
    · exact ⟨inactive (by rw [hcyc]; rfl), by rw [DigestLaw, hssu]; exact digestLaw_reset⟩
  | false =>
    refine ⟨?_, nextState_digestLaw hc hdigest⟩
    by_cases hs : s.cyc.state = .config
    · cases hi : (nextState c s).cyc.state.inactive with
      | true => exact inactive hi
      | false =>
        have hout : (nextState c s).cyc.state ≠ .config := fun e => by simp [e, StationState.inactive] at hi
        have hjoin : isJoin c = true := by
          cases hj : isJoin c with
          | true => rfl
          | false =>
            have hin : s.cyc.state.inactive = true := by rw [hs]; rfl
            exact absurd ((nextState_stateKept hin (fun hon => absurd (hin.symm.trans (hst.1.mp hon)) (by decide)) hc
              (.inl hj)).1.trans hs) hout
        have hset : ∀ w a v, c = .registerWrite w a v → isSettingAddr a.toNat = false := by
          rintro w a v rfl
          rw [isJoin, Bool.and_eq_true, beq_iff_eq] at hjoin
          rw [hjoin.1]
          decide
        obtain ⟨hprofile, hsettings⟩ := nextState_settingsKept (c := c) (s := s) (by rintro rfl; cases hc)
          (by rintro rfl; cases hc) (.inr hset)
        have hv : Validated s := by
          rw [Validated, ← hprofile, ← hsettings]
          exact (nextState_validated hst hs hc).resolve_left hout
        exact nextState_tablesLaw hc hv htables fun _ => hset
    · exact nextState_tablesLaw hc (hp hs) htables fun e => absurd e hs

/-! ### Event flags and counters -/

/-- Event flags and counters rise, and STATE is set where the station state changes (R24, R170, R173). -/
def MarksRise (s t : State) : Prop :=
  (∀ e, s.mgt.events.get e = true → t.mgt.events.get e = true) ∧
    (∀ k, (s.mgt.counters.get k).toNat ≤ (t.mgt.counters.get k).toNat) ∧
    (t.cyc.state ≠ s.cyc.state → t.mgt.events.state = true)

theorem MarksRise.of_eq {s t : State} (h : marks t = marks s) : MarksRise s t := by
  simp only [marks, Prod.mk.injEq] at h
  obtain ⟨hs, he, hk⟩ := h
  exact ⟨fun e h => he ▸ h, fun k => by rw [hk], fun hne => absurd hs hne⟩

theorem MarksRise.trans {s t u : State} (h : MarksRise s t) (g : MarksRise t u) : MarksRise s u := by
  refine ⟨fun e k => g.1 e (h.1 e k), fun k => (h.2.1 k).trans (g.2.1 k), fun hne => ?_⟩
  by_cases ht : t.cyc.state = s.cyc.state
  · exact g.2.2 (by rw [ht]; exact hne)
  · exact g.1 .state (h.2.2 ht)

theorem raiseEvent_rise (e : Event) (s : State) : MarksRise s (raiseEvent e s) := by
  refine ⟨fun d hd => ?_, fun k => Nat.le_refl _, fun hne => absurd rfl hne⟩
  rw [raiseEvent_events]
  by_cases hde : d = e
  · rw [hde, EventFlags.get_set_self]
  · rw [EventFlags.get_set_of_ne _ _ hde]
    exact hd

theorem countEvent_rise (c : Counter) (s : State) : MarksRise s (countEvent c s) := by
  refine ⟨fun e he => he, fun k => ?_, fun hne => absurd rfl hne⟩
  rw [countEvent_counters]
  by_cases hkc : k = c
  · rw [hkc, Counters.get_set_self]
    exact le_saturatingSucc _
  · rw [Counters.get_set_of_ne _ _ hkc]

theorem enterState_rise (st : StationState) (s : State) : MarksRise s (enterState st s) := by
  unfold enterState
  split
  · exact .of_eq rfl
  · have hraised := raiseEvent_rise .state { s with cyc := { s.cyc with state := st } }
    exact ⟨hraised.1, hraised.2.1, fun _ => rfl⟩

/-- The shared operations lower no event flag and no counter, and set STATE with every change of station state. -/
theorem marksRise_opRel : OpRel MarksRise where
  trans := .trans
  enter := enterState_rise
  raise := raiseEvent_rise
  count := countEvent_rise
  unmarked h _ := .of_eq h

/-- A command other than a reset and a completed read lowers no mark. -/
theorem nextState_rise {c : Instr} {s : State} (hc : isReset c = false) (h1 : c ≠ .eventsRead)
    (h2 : ∀ k, c ≠ .counterRead k) : MarksRise s (nextState c s) := by
  refine marksRise_opRel.of_nextState c s hc h1 h2 fun w a v _ ha _ => ?_
  have hcommand : a ≠ 0x00 ∧ a ≠ 0x02 := by
    refine ⟨?_, ?_⟩ <;> (rintro rfl; revert ha; decide)
  unfold writeRegister
  rw [if_neg hcommand.1, if_neg hcommand.2, if_pos ha]
  split
  · exact .of_eq rfl
  · exact raiseEvent_rise _ _

end Sys2Proof.Machine

open Sys2Proof Sys2Proof.Machine

/-- Settles O58: the walk through the operations, for the laws of the schedule state; what an inactive station holds is
within every bound. -/
theorem stepKeepsScheduleLaw : Obligations.StepKeepsScheduleLaw := by
  intro s t hr hs hp h hstep
  rcases step_cases hstep with rfl | ⟨c, rest, -, rfl⟩
  · exact h
  · exact nextState_scheduleLaw c ⟨hr, hs⟩ hp h
end

section
open Sys2Proof Sys2Proof.Machine

/-! The laws that every command keeps (R24, R46, R166, R170, R173). -/

namespace Sys2Proof.Machine

theorem completeEventsRead_cyc (s : State) :
    (completeEventsRead s).cyc = s.cyc ∧ (completeEventsRead s).mgt.counters = s.mgt.counters := by simp

theorem completeCounterRead_get {j k : Counter} (s : State) (h : k ≠ j) :
    (completeCounterRead j s).mgt.counters.get k = s.mgt.counters.get k := by
  unfold completeCounterRead
  split
  · rfl
  · split
    · exact Counters.get_set_of_ne _ _ h
    · rfl

theorem completeCounterRead_events (k : Counter) (s : State) :
    (completeCounterRead k s).mgt.events = s.mgt.events ∧ (completeCounterRead k s).cyc = s.cyc := by simp

/-- STATE is set where a command changes the station state (R24). -/
theorem nextState_setsState {c : Instr} {s : State} (hc : isReset c = false)
    (hne : (nextState c s).cyc.state ≠ s.cyc.state) : (nextState c s).mgt.events.state = true := by
  by_cases he : c = .eventsRead
  · subst he
    refine absurd ?_ hne
    rw [nextState_eventsRead]
    split <;> simp
  · by_cases hk : ∃ k, c = .counterRead k
    · obtain ⟨k, rfl⟩ := hk
      refine absurd ?_ hne
      rw [nextState_counterRead]
      split <;> simp
    · exact (nextState_rise hc he fun k e => hk ⟨k, e⟩).2.2 hne

/-- An event flag falls at a completed read of EVENTS alone, resets apart (R170, R171). -/
theorem nextState_events {c : Instr} {s : State} (hc : isReset c = false) (he : c ≠ .eventsRead) {e : Event}
    (h : s.mgt.events.get e = true) : (nextState c s).mgt.events.get e = true := by
  by_cases hk : ∃ k, c = .counterRead k
  · obtain ⟨k, rfl⟩ := hk
    rw [nextState_counterRead]
    split
    · exact h
    · rw [(completeCounterRead_events k s).1]
      exact h
  · exact (nextState_rise hc he fun k e => hk ⟨k, e⟩).1 e h

/-- A counter falls at a completed read of its own register alone, resets apart (R173). -/
theorem nextState_counters {c : Instr} {s : State} (hc : isReset c = false) {k : Counter} (hk : c ≠ .counterRead k) :
    (s.mgt.counters.get k).toNat ≤ ((nextState c s).mgt.counters.get k).toNat := by
  by_cases he : c = .eventsRead
  · subst he
    rw [nextState_eventsRead]
    split <;> simp
  · by_cases hj : ∃ j, c = .counterRead j
    · obtain ⟨j, rfl⟩ := hj
      rw [nextState_counterRead]
      split
      · exact Nat.le_refl _
      · rw [completeCounterRead_get s fun e => hk (by rw [e])]
    · exact (nextState_rise hc he fun j e => hj ⟨j, e⟩).2.1 k

end Sys2Proof.Machine

/-- Settles O19: the walk through the operations, for the marks of MGT; and the lock of R166, command by command. -/
theorem everyCommandKeeps : Obligations.EveryCommandKeeps := by
  refine ⟨fun c s t h hc => ?_, fun c s t h hc => ?_, fun c s t h h1 h2 => ?_⟩ <;> obtain rfl := nextState_of_exec h
  · refine ⟨nextState_setsState hc, fun hr hs => ?_⟩
    have hi : s.cyc.state.inactive = true := by rw [hs]; rfl
    have hkept := nextState_stateKept (c := c) hi (fun hon => absurd (hi.symm.trans (hr.mp hon)) (by decide)) hc (.inr hs)
    exact ⟨hkept.1.trans hs, hkept.2⟩
  · exact ⟨fun he e => nextState_events hc he, fun k => nextState_counters hc⟩
  · refine ⟨fun hne => ?_, fun hne => ?_⟩
    · by_contra hno
      refine hne (nextState_settingsKept h1 h2 ?_)
      by_cases hs : s.cyc.state = .config
      · refine .inr fun w a v e => ?_
        by_contra ha
        exact hno ⟨hs, w, a, v, e, by simpa using ha⟩
      · exact .inl hs
    · by_contra hno
      by_cases hw : ∃ w a v, c = .registerWrite w a v
      · obtain ⟨w, a, v, rfl⟩ := hw
        refine hne ?_
        rw [nextState_registerWrite]
        split
        · rfl
        · exact writeRegister_mask (s := endRead s) fun ha => hno ⟨w, v, by rw [ha]⟩
      · exact hne (nextState_locked h1 h2 fun w a v e => hw ⟨w, a, v, e⟩).2
end

section
open Sys2Proof Sys2Proof.Machine

/-- Settles O20: each command in turn, by the frame lemmas of the operation it calls. -/
theorem commandFrames : Obligations.CommandFrames := by
  refine ⟨fun s => by simp [txenPin, Option.isSome_iff_exists], fun c s t h => ?_⟩
  replace h := nextState_of_exec h
  cases c with
  | carrierDetect u level =>
    rw [nextState_carrierDetect] at h
    unfold carrierRises carrierFalls at h
    subst h
    dsimp only
    (repeat' split) <;> simp
  | listenTimerExpiry u =>
    by_cases hdue : s.cyc.state = .listen ∧ ∃ since, s.cyc.listenTimer = .running since ∧ since + listenTimeout ≤ u
    · obtain ⟨hs, since, hl, hd⟩ := hdue
      rw [nextState_listenTimerExpiry_of_due hs hl hd] at h
      subst h
      simp
    · rw [nextState_listenTimerExpiry_of_not_due fun hs since hl hd => hdue ⟨hs, since, hl, hd⟩] at h
      subst h
      simp
  | coldStartDelayEnd u =>
    rw [nextState_coldStartDelayEnd] at h
    split at h <;> subst h <;> simp
  | slotReport line =>
    rw [nextState_slotReport] at h
    subst h
    simp
  | unslottedReception r =>
    rw [nextState_unslottedReception] at h
    subst h
    simp
  | cycleBoundary =>
    cases hg : nextGap s.cyc with
    | none => rw [nextState_cycleBoundary_idle hg] at h; subst h; simp
    | some start => rw [nextState_cycleBoundary hg] at h; subst h; simp
  | lineLostTimerExpiry u =>
    rw [nextState_lineLostTimerExpiry] at h
    split at h <;> subst h <;> simp
  | transmissionEnd u =>
    cases htx : s.lif.tx with
    | none => rw [nextState_transmissionEnd_idle htx] at h; subst h; simp [txenPin, htx]
    | some f => rw [nextState_transmissionEnd htx] at h; subst h; simp [txenPin]
  | ownBid =>
    rw [nextState_ownBid] at h
    split at h <;> subst h <;> simp
  | tableSend =>
    cases hf : s.ssu.tableOut with
    | none => rw [nextState_tableSend_idle (.inl hf)] at h; subst h; simp
    | some f =>
      cases hg : s.alc.grants with
      | none => rw [nextState_tableSend_idle (.inr hg)] at h; subst h; simp
      | some g =>
        rw [nextState_tableSend hf hg] at h
        split at h <;> subst h <;> simp
  | frameRequest =>
    cases hg : ownGrantedSlot s with
    | none => rw [nextState_frameRequest_idle hg] at h; subst h; simp
    | some g =>
      rw [nextState_frameRequest hg] at h
      split at h <;> subst h <;> simp
  | staleTimerExpiry u src cls =>
    rw [nextState_staleTimerExpiry] at h
    subst h
    simp
  | ingressWord kind w =>
    rw [nextState_ingressWord] at h
    split at h <;> subst h <;> simp
  | egressWordTaken =>
    rw [nextState_egressWordTaken] at h
    split at h <;> subst h <;> simp
  | _ => trivial
end

section
/-! SUPPORT. The own granted data slot (R91), the frame TXQ supplies for it (R107), and the commands that begin no frame. -/

namespace Sys2Proof.Machine

/-- The entry of an own granted slot is the one that holds the slot, where it is this station's (R89, R91). -/
theorem ownEntryAt_eq_some (g : GrantList) (own : Station) (i : Nat) (e : Grant) :
    ownEntryAt g own i = some e ↔ entryAt g i = some e ∧ e.station = own := by
  unfold ownEntryAt
  cases entryAt g i with
  | none => simp
  | some n =>
    by_cases hn : n.station = own
    · simp only [hn, if_true, Option.some.injEq]
      exact ⟨fun h => ⟨h, h ▸ hn⟩, fun h => h.1⟩
    · simp only [hn, if_false, Option.some.injEq, reduceCtorEq, false_iff]
      rintro ⟨rfl, h⟩
      exact hn h

/-- An own granted slot: a grant list is held, the station is IN_STEP, and the position stands at a slot before the end
of the data phase that an own entry holds (R19, R91, R93). -/
theorem ownGrantedSlot_eq_some (s : State) (e : Grant) (i total : Nat) :
    ownGrantedSlot s = some (e, i, total) ↔
      ∃ g, s.alc.grants = some g ∧ s.cyc.position = .dataFixed (some i) ∧ s.cyc.state = .inStep ∧
        slotBeforeEnd i s.cyc = true ∧ entryAt g i = some e ∧ e.station = ownNumber s ∧ total = g.total := by
  unfold ownGrantedSlot
  constructor
  · intro h
    split at h
    · rename_i g j hg hp
      split at h
      · rename_i hs
        rw [Bool.and_eq_true, decide_eq_true_eq] at hs
        obtain ⟨n, hn, heq⟩ := Option.map_eq_some_iff.mp h
        cases heq
        obtain ⟨hentry, hown⟩ := (ownEntryAt_eq_some _ _ _ _).mp hn
        exact ⟨g, hg, hp, hs.1, hs.2, hentry, hown, rfl⟩
      · cases h
    · cases h
  · rintro ⟨g, hg, hp, hs, hb, hentry, hown, rfl⟩
    simp only [hg, hp, hs, hb, decide_true, Bool.and_self, if_true,
      (ownEntryAt_eq_some _ _ _ _).mpr ⟨hentry, hown⟩, Option.map_some]

theorem entryAt_eq_some {g : GrantList} {i : Nat} {e : Grant} (h : entryAt g i = some e) :
    e ∈ g.entries ∧ e.first ≤ i ∧ i < e.first + e.count := by
  have hi := List.find?_some h
  rw [Bool.and_eq_true, decide_eq_true_eq, decide_eq_true_eq] at hi
  exact ⟨List.mem_of_find?_eq_some h, hi⟩

/-- A frame TXQ supplies is an EMPTY, an ABORT or a SEGMENT of this station, in the class asked for (R107, R108, R110,
R111). -/
theorem frameFor_cases (cls : Class) (remain : Byte) (s : State) :
    frameFor cls remain s = .empty ⟨ownNumber s, cls, remain⟩ ∨
      ∃ d rest, s.txq.queues.get cls = d :: rest ∧
        (frameFor cls remain s = .abort ⟨ownNumber s, cls, d.seq.getD 0, remain⟩ ∨
          frameFor cls remain s = .segment (segmentOf (ownNumber s) d remain)) := by
  unfold frameFor
  split
  · exact .inl rfl
  · rename_i d rest hq
    split
    · exact .inl rfl
    · exact .inr ⟨d, rest, hq, .inl rfl⟩
    · exact .inr ⟨d, rest, hq, .inr rfl⟩
    · exact .inr ⟨d, rest, hq, .inr rfl⟩

/-- The commands that begin a frame (R22, R33, R49, R70, R107). -/
def beginsFrame : Instr → Bool
  | .coldStartDelayEnd _ => true
  | .ownBid => true
  | .tableSend => true
  | .frameRequest => true
  | _ => false

/-- Every other command leaves the frame in transmission as it is, or ends it (R22, R23). -/
theorem nextState_tx {c : Instr} {s : State} (hc : beginsFrame c = false) :
    (nextState c s).lif.tx = s.lif.tx ∨ (nextState c s).lif.tx = none := by
  cases c with
  | powerOn => exact .inr rfl
  | resetPinAssert => exact .inr rfl
  | resetPinRelease => exact .inl rfl
  | cleanUpComplete => rw [nextState_cleanUpComplete]; split <;> exact .inl rfl
  | join t => rw [nextState_join]; split <;> simp
  | leave => rw [nextState_leave]; split <;> simp
  | flush c => rw [nextState_flush]; split <;> simp
  | softReset => rw [nextState_softReset]; split; exacts [.inl rfl, .inr rfl]
  | unknownCommand code =>
    rw [nextState_unknownCommand]
    (repeat' split) <;> exact .inl rfl
  | registerWrite t addr v =>
    rw [nextState_registerWrite]
    split
    · exact .inl rfl
    · rcases writeRegister_cases t addr v (endRead s) with
        ⟨-, e⟩ | e | ⟨c, e⟩ | ⟨-, e⟩ | e | ⟨-, e⟩ | ⟨-, -, e⟩ | e <;> rw [e]
      · exact .inl (by simp)
      · exact .inl (by simp)
      · exact .inl (by simp)
      · exact .inr rfl
      all_goals exact .inl rfl
  | eventsRead => rw [nextState_eventsRead]; split <;> simp
  | counterRead k => rw [nextState_counterRead]; split <;> simp
  | readCapture addr => rw [nextState_readCapture]; split <;> simp
  | carrierDetect t level =>
    obtain ⟨-, -, -, -, -, -, -, -, htx, -⟩ := commandFrames.2 _ s _ (exec_eq_next (.carrierDetect t level) s)
    exact .inl htx
  | listenTimerExpiry t =>
    obtain ⟨-, hlif, -⟩ := commandFrames.2 _ s _ (exec_eq_next (.listenTimerExpiry t) s)
    exact .inl (by rw [hlif])
  | coldStartDelayEnd t => cases hc
  | transmissionEnd t =>
    obtain ⟨-, htx, -⟩ := commandFrames.2 _ s _ (exec_eq_next (.transmissionEnd t) s)
    exact .inr htx
  | lineLostTimerExpiry t =>
    obtain ⟨-, htx, -⟩ := commandFrames.2 _ s _ (exec_eq_next (.lineLostTimerExpiry t) s)
    exact .inl htx
  | ownBid => cases hc
  | slotReport line => exact .inl (by rw [nextState_slotReport]; simp)
  | unslottedReception r => exact .inl (by rw [nextState_unslottedReception]; simp)
  | cycleBoundary =>
    obtain ⟨-, htx, -⟩ := commandFrames.2 _ s _ (exec_eq_next .cycleBoundary s)
    exact .inl htx
  | tableSend => cases hc
  | frameRequest => cases hc
  | staleTimerExpiry t src cls => exact .inl (by rw [nextState_staleTimerExpiry]; simp)
  | ingressWord kind w => rw [nextState_ingressWord]; split <;> simp
  | egressWordTaken => rw [nextState_egressWordTaken]; split <;> simp

end Sys2Proof.Machine

open Sys2Proof Sys2Proof.Machine

/-- Settles O21: four commands alone begin a frame, and each under the guard that the law names. -/
theorem transmissionLaw : Obligations.TransmissionLaw := by
  intro c s t f hlaw h htx hnew
  obtain rfl := nextState_of_exec h
  clear h
  cases hc : beginsFrame c with
  | false =>
    rcases nextState_tx (s := s) hc with e | e
    · exact absurd (e.symm.trans htx) hnew
    · exact absurd (e.symm.trans htx) (by simp)
  | true =>
    cases c with
    | coldStartDelayEnd w =>
      rw [nextState_coldStartDelayEnd] at htx
      split at htx
      · cases htx
        exact ⟨fun hk => absurd rfl hk, ⟨w, rfl⟩, rfl, rfl⟩
      · exact absurd htx hnew
    | ownBid =>
      rw [nextState_ownBid] at htx
      split at htx
      · rename_i hguard
        rw [Bool.and_eq_true, Bool.and_eq_true, lineFree_iff, bidPlaceable_iff, placedBefore_iff] at hguard
        obtain ⟨⟨hfree, -⟩, hlock, hposition, -, hplaced⟩ := hguard
        cases htx
        exact ⟨fun _ => hfree, rfl, rfl, hlock, hposition, hplaced⟩
      · exact absurd htx hnew
    | tableSend =>
      cases hf : s.ssu.tableOut with
      | none => rw [nextState_tableSend_idle (.inl hf)] at htx; exact absurd htx hnew
      | some b =>
        cases hg : s.alc.grants with
        | none => rw [nextState_tableSend_idle (.inr hg)] at htx; exact absurd htx hnew
        | some g =>
          rw [nextState_tableSend hf hg] at htx
          split at htx
          · rename_i hguard
            rw [Bool.and_eq_true, Bool.and_eq_true, Bool.and_eq_true, lineFree_iff, decide_eq_true_eq, beq_iff_eq]
              at hguard
            obtain ⟨⟨⟨hfree, hstate⟩, hposition⟩, -⟩ := hguard
            cases htx
            exact ⟨fun _ => hfree, rfl, hstate, hposition, b, rfl, rfl⟩
          · exact absurd htx hnew
    | frameRequest =>
      cases hg : ownGrantedSlot s with
      | none => rw [nextState_frameRequest_idle hg] at htx; exact absurd htx hnew
      | some g =>
        obtain ⟨e, i, total⟩ := g
        rw [nextState_frameRequest hg] at htx
        split at htx
        · rename_i hfree
          obtain ⟨g, hgrants, hposition, hstate, -, hentry, hown, rfl⟩ := (ownGrantedSlot_eq_some _ _ _ _).mp hg
          obtain ⟨hmem, hfirst, hlast⟩ := entryAt_eq_some hentry
          have hgranted : granted s e.cls (natByte (g.total - 1 - i)) :=
            ⟨g, e, i, hgrants, hmem, hown, rfl, hfirst, hlast, hposition, rfl⟩
          have hf : frameFor e.cls (natByte (g.total - 1 - i)) s = f := Option.some.inj htx
          refine ⟨fun _ => (lineFree_iff s).mp hfree, ?_⟩
          rcases frameFor_cases e.cls (natByte (g.total - 1 - i)) s with he | ⟨d, rest, hq, he | he⟩
          · obtain rfl := he.symm.trans hf
            exact ⟨rfl, hstate, rfl, hgranted⟩
          · obtain rfl := he.symm.trans hf
            exact ⟨rfl, hstate, rfl, hgranted⟩
          · obtain rfl := he.symm.trans hf
            have hcls : d.cls = e.cls := ((hlaw.1 e.cls).1 d (by rw [hq]; exact List.mem_cons_self)).1
            exact ⟨rfl, hstate, rfl, show granted s d.cls _ from hcls ▸ hgranted⟩
        · exact absurd htx hnew
    | _ => cases hc
end

section
/-! SUPPORT. Entry into LISTEN written out (R28), the listen and cold-start timers (R20, R32), and the line-lost timer
(R21, R42). -/

namespace Sys2Proof.Machine

theorem enterState_of_ne {st : StationState} {s : State} (h : s.cyc.state ≠ st) :
    enterState st s = raiseEvent .state { s with cyc := { s.cyc with state := st } } := if_neg h

theorem enableReceiver_eq (t : Time) (l : Lif) :
    enableReceiver t l =
      { l with
        receiver := .on,
        receiverSince :=
          match l.receiver with
          | .off => some t
          | .on => l.receiverSince
          | .finishing => l.receiverSince } := by
  obtain ⟨receiver, receiverSince, tx, echo, startEcho, carriers⟩ := l
  cases receiver <;> rfl

/-- The state after the entry into LISTEN (R28), leave-pending clear, from a state where the receiver, the timer and the
marks stand as they may. -/
theorem enterListen_eq {t : Time} {s : State} (hl : s.cyc.leavePending = false) (hs : s.cyc.state ≠ .listen) :
    enterListen t s =
      { s with
        lif := { s.lif with
          receiver := .on,
          receiverSince :=
            match s.lif.receiver with
            | .off => some t
            | .on => s.lif.receiverSince
            | .finishing => s.lif.receiverSince },
        cyc := { s.cyc with
          state := .listen, listenTimer := if s.pins.cd then .held else .running t, profileChecked := false,
          joinCycle := 0, outOfStep := 0, echoFault := 0, pendingLoad := none, coldStart := .stopped,
          outcome := none, eligibleLast := false },
        ssu := ⟨Sched.empty, Sched.empty.digest, none⟩, alc := ⟨none⟩,
        mgt := { s.mgt with
          events := { s.mgt.events with state := true }, arisen := { s.mgt.arisen with state := true } } } := by
  unfold enterListen
  rw [if_neg (by simp [hl]), enterState_of_ne hs]
  simp only [clearSched, withSched, dropGrants, raiseEvent, listenCyc, startListening, EventFlags.set, enableReceiver_eq]
  rfl

theorem enterListen_leaving {t : Time} {s : State} (hl : s.cyc.leavePending = true) :
    enterListen t s = enterStopped s := if_pos hl

theorem abandonEcho_eq (s : State) :
    abandonEcho s = { s with lif := { s.lif with echo := if s.lif.tx = none then none else s.lif.echo } } := by
  unfold abandonEcho
  cases s.lif.tx <;> rfl

theorem startEchoFailed_eq (t : Time) (s : State) :
    startEchoFailed t s = enterListen t
      { s with
        lif := { s.lif with echo := if s.lif.tx = none then none else s.lif.echo },
        cyc := { s.cyc with
          timingLock := false, position := .none, boundaryDue := false, cycleStart := none, annStart := none,
          dataStart := none, dataEnd := none, unslottedUntil := none, fixedAt := none, layout := .unknown,
          lineLost := .stopped } } := by
  rw [startEchoFailed, abandonEcho_eq]
  rfl

theorem Timer.reached_eq_false {timer : Timer} {limit t : Time} (h : ∀ since, timer = .running since → t < since + limit) :
    timer.reached limit t = false := by
  cases timer with
  | stopped => rfl
  | running since => simpa [Timer.reached] using h since rfl

theorem forgetEcho_eq (s : State) : forgetEcho s =
    if s.lif.tx = none ∧ s.pins.cd = false then { s with lif := { s.lif with echo := none, startEcho := none } }
    else s := by
  unfold forgetEcho
  cases s.lif.tx <;> cases s.pins.cd <;> rfl

@[simp] theorem forgetEcho_loseTiming_state (s : State) : (forgetEcho (loseTiming s)).cyc.state = s.cyc.state := by
  unfold forgetEcho
  split <;> rfl

/-- A step loss by line loss, in the four states that hold the line's step (R42). -/
theorem lineLoss_of_bids {t : Time} {s : State}
    (h : s.cyc.state = .joining ∨ s.cyc.state = .inStep ∨ s.cyc.state = .blind ∨ s.cyc.state = .outOfStep) :
    lineLoss t s = stepLoss t s := by
  rcases h with h | h | h | h <;> simp only [lineLoss, h]

theorem nextState_lineLostTimerExpiry_of_due {t since : Time} {s : State} (h : s.cyc.lineLost = .running since)
    (hd : since + lineLostTimeout ≤ t) :
    nextState (.lineLostTimerExpiry t) s = lineLoss t (forgetEcho (loseTiming s)) := by
  rw [nextState_lineLostTimerExpiry, if_pos]
  simpa [Timer.reached, h] using hd

/-! ### CD against the timers (R20, R32) -/

/-- What a rising CD does before the timers answer it (R11, R15). -/
def carrierSeen (t : Time) (s : State) : State :=
  { s with
    pins := { s.pins with cd := true, cdSince := t },
    lif := { s.lif with
      echo := s.lif.echo.map (fun e => { e with carrierSeen := true }),
      startEcho := s.lif.startEcho.map (fun e => { e with carrierSeen := true }) } }

theorem carrierRises_eq (t : Time) (s : State) :
    carrierRises t s =
      if s.cyc.state = .starting ∧ s.cyc.coldStart ≠ .stopped then enterListen t (carrierSeen t s)
      else { carrierSeen t s with cyc := { s.cyc with
          listenTimer := if s.cyc.listenTimer = .stopped then .stopped else .held } } := by
  have hc : (s.cyc.state = .starting && s.cyc.coldStart != .stopped) = true ↔
      s.cyc.state = .starting ∧ s.cyc.coldStart ≠ .stopped := by
    cases s.cyc.coldStart <;> simp
  unfold carrierRises
  simp only [hc]
  split
  · rfl
  · split
    · rename_i hl
      simp only [carrierSeen, ← hl]
    · rfl

theorem carrierFalls_eq (t : Time) (s : State) :
    carrierFalls t s =
      { s with
        pins := { s.pins with cd := false, cdSince := t },
        lif := { s.lif with
          carriers :=
            if s.lif.receiver = .off then []
            else (s.pins.cdSince, t) :: s.lif.carriers.filter (fun c => decide (s.pins.cdSince - us 106 ≤ c.2)) },
        cyc := { s.cyc with listenTimer := if s.cyc.listenTimer = .stopped then .stopped else .running t } } := by
  by_cases hl : s.cyc.listenTimer = .stopped
  · have hkept : (if s.cyc.listenTimer = .stopped then ListenTimer.stopped else .running t) = s.cyc.listenTimer := by
      rw [if_pos hl, hl]
    rw [hkept]
    exact if_pos hl
  · rw [if_neg hl]
    exact if_neg hl

theorem nextState_coldStartDelayEnd_of_due {t since : Time} {s : State} (hs : s.cyc.state = .starting)
    (hc : s.cyc.coldStart = .running since) (hd : since + coldStartDelay (ownNumber s) ≤ t) :
    nextState (.coldStartDelayEnd t) s =
      transmitStart (.start (ownNumber s) (ownCheck s)) { s with cyc := { s.cyc with coldStart := .stopped } } := by
  rw [nextState_coldStartDelayEnd, if_pos]
  simpa [Timer.reached, hs, hc] using hd

theorem nextState_coldStartDelayEnd_of_not_due {t : Time} {s : State}
    (h : s.cyc.state ≠ .starting ∨
      ∀ since, s.cyc.coldStart = .running since → t < since + coldStartDelay (ownNumber s)) :
    nextState (.coldStartDelayEnd t) s = s := by
  rw [nextState_coldStartDelayEnd, if_neg]
  rcases h with h | h
  · simp [h]
  · simp [Timer.reached_eq_false h]

end Sys2Proof.Machine

open Sys2Proof Sys2Proof.Machine

/-- Settles O14. -/
theorem enterListenEffects : Obligations.EnterListenEffects :=
  ⟨fun _ _ => enterListen_eq, fun _ _ => enterListen_leaving, startEchoFailed_eq⟩

/-- Settles O18: the timing is lost, and `lineLoss` follows the station state. -/
theorem lineLost : Obligations.LineLost := by
  refine ⟨?_, ?_, forgetEcho_eq⟩
  · intro t since s hl hd
    have hnext := nextState_lineLostTimerExpiry_of_due hl hd
    refine ⟨fun hs => ?_, fun hs => ?_, fun hs => ?_⟩ <;> rw [exec_eq_next, hnext]
    · congr 1
      rw [← forgetEcho_loseTiming_state] at hs
      rcases hs with h | h <;> simp only [lineLoss, h] <;> rfl
    · rw [← forgetEcho_loseTiming_state] at hs
      simp only [lineLoss, hs]
      rfl
    · rw [lineLoss_of_bids (by simpa using hs), stepLoss]
      rfl
  · intro t s h
    rw [exec_eq_next, nextState_lineLostTimerExpiry, Timer.reached_eq_false (limit := lineLostTimeout) h]
    rfl

/-- Settles O16. -/
theorem carrierAndColdStart : Obligations.CarrierAndColdStart := by
  refine ⟨⟨?_, ?_, ?_, ?_⟩, ?_, ?_, ?_, ?_⟩
  · intro t s
    rw [exec_eq_next, nextState_carrierDetect, if_pos rfl]
  · intro t s hcd hstart
    rw [exec_eq_next, nextState_carrierDetect, if_neg (by simp [hcd]), if_pos rfl, carrierRises_eq, if_neg hstart]
    rfl
  · intro t s hcd hs hc
    rw [exec_eq_next, nextState_carrierDetect, if_neg (by simp [hcd]), if_pos rfl, carrierRises_eq, if_pos ⟨hs, hc⟩]
    rfl
  · intro t s hcd
    rw [exec_eq_next, nextState_carrierDetect, if_neg (by simp [hcd]), if_neg (by simp), carrierFalls_eq]
  · intro t since s hs hl hd
    rw [exec_eq_next, nextState_listenTimerExpiry_of_due hs hl hd, enterState_of_ne (by simp [hs])]
    rfl
  · intro t s h
    rw [exec_eq_next, nextState_listenTimerExpiry_of_not_due]
    intro hs since hl hd
    rcases h with h | h
    · exact h hs
    · exact absurd hd (not_le.mpr (h since hl))
  · intro t since s hs hc hd
    rw [exec_eq_next, nextState_coldStartDelayEnd_of_due hs hc hd]
    rfl
  · intro t s h
    rw [exec_eq_next, nextState_coldStartDelayEnd_of_not_due h]

end

section
/-! SUPPORT. JOIN and its validation (R27, R28, R167). -/

namespace Sys2Proof.Machine

/-- `r` names the first of the checks that fails, or says that none does (R167). -/
def FirstRefusal : List (Prop × JoinRefusal) → JoinRefusal → Prop
  | [], r => r = .none
  | (holds, reason) :: rest, r => (¬holds ∧ r = reason) ∨ (holds ∧ FirstRefusal rest r)

/-- One check in front of the others. -/
theorem FirstRefusal.check {failed holds : Prop} [Decidable failed] {reason r : JoinRefusal}
    {rest : List (Prop × JoinRefusal)} (h : failed ↔ ¬holds) (hr : FirstRefusal rest r) :
    FirstRefusal ((holds, reason) :: rest) (if failed then reason else r) := by
  split
  · rename_i hf
    exact .inl ⟨h.mp hf, rfl⟩
  · rename_i hf
    exact .inr ⟨not_not.mp (mt h.mpr hf), hr⟩

theorem FirstRefusal.eq_none_iff {checks : List (Prop × JoinRefusal)} {r : JoinRefusal}
    (hreasons : ∀ c ∈ checks, c.2 ≠ .none) (h : FirstRefusal checks r) : r = .none ↔ ∀ c ∈ checks, c.1 := by
  induction checks with
  | nil => exact ⟨fun _ c hc => absurd hc (by simp), fun _ => h⟩
  | cons c rest ih =>
    obtain ⟨holds, reason⟩ := c
    rw [List.forall_mem_cons] at hreasons ⊢
    obtain ⟨hreason, hrest⟩ := hreasons
    rcases h with ⟨hn, rfl⟩ | ⟨hp, h⟩
    · exact ⟨fun he => absurd he hreason, fun he => absurd he.1 hn⟩
    · rw [ih hrest h]
      exact ⟨fun he => ⟨hp, he⟩, fun he => he.2⟩

theorem FirstRefusal.eq_of_first {pre post : List (Prop × JoinRefusal)} {c : Prop × JoinRefusal} {r : JoinRefusal}
    (hpre : ∀ d ∈ pre, d.1) (hc : ¬c.1) (h : FirstRefusal (pre ++ c :: post) r) : r = c.2 := by
  induction pre with
  | nil =>
    rcases h with ⟨-, h⟩ | ⟨h, -⟩
    · exact h
    · exact absurd h hc
  | cons d pre ih =>
    obtain ⟨holds, rest⟩ := List.forall_mem_cons.mp hpre
    rcases h with ⟨h, -⟩ | ⟨-, h⟩
    · exact absurd holds h
    · exact ih rest h

/-- The quanta of the classes that have one lie in their range where none of the three fails its check (R167). -/
theorem quantaInRange_iff (p : Profile) :
    (∀ c : Sys2Proof.Class, c ≠ 0 → 1 ≤ p.quantum c ∧ p.quantum c ≤ 32) ↔
      (1 ≤ p.quantum 1 ∧ p.quantum 1 ≤ 32) ∧ (1 ≤ p.quantum 2 ∧ p.quantum 2 ≤ 32) ∧
        (1 ≤ p.quantum 3 ∧ p.quantum 3 ≤ 32) := by
  constructor
  · intro h
    exact ⟨h 1 (by decide), h 2 (by decide), h 3 (by decide)⟩
  · rintro ⟨h1, h2, h3⟩ c hc
    match c with
    | 0 => exact absurd rfl hc
    | 1 => exact h1
    | 2 => exact h2
    | 3 => exact h3

/-- The weights lie in their range where none of the four fails its check (R167). -/
theorem weightsInRange_iff (l : LocalSettings) :
    (∀ q : Sys2Proof.Class, 1 ≤ (l.weights.get q).toNat ∧ (l.weights.get q).toNat ≤ 8) ↔
      (1 ≤ l.weights.c0.toNat ∧ l.weights.c0.toNat ≤ 8) ∧ (1 ≤ l.weights.c1.toNat ∧ l.weights.c1.toNat ≤ 8) ∧
        (1 ≤ l.weights.c2.toNat ∧ l.weights.c2.toNat ≤ 8) ∧ (1 ≤ l.weights.c3.toNat ∧ l.weights.c3.toNat ≤ 8) := by
  constructor
  · intro h
    exact ⟨h 0, h 1, h 2, h 3⟩
  · rintro ⟨h0, h1, h2, h3⟩ q
    match q with
    | 0 => exact h0
    | 1 => exact h1
    | 2 => exact h2
    | 3 => exact h3

/-- The seven checks of JOIN in the order of R167, with the reason each gives. -/
def joinChecks (p : Profile) (l : LocalSettings) : List (Prop × JoinRefusal) :=
  [(2 ≤ p.lineSize ∧ p.lineSize ≤ 16, .lineSize), (8 ≤ p.budget ∧ p.budget ≤ 128, .budget),
    (p.cap ≤ p.budget, .expressCap),
    ((∀ c : Sys2Proof.Class, c ≠ 0 → 1 ≤ p.quantum c ∧ p.quantum c ≤ 32), .quantum),
    (2 ≤ p.limit ∧ p.limit ≤ 7, .silenceLimit), (l.station.toNat < p.lineSize, .stationNumber),
    ((∀ q : Sys2Proof.Class, 1 ≤ (l.weights.get q).toNat ∧ (l.weights.get q).toNat ≤ 8), .weight)]

theorem joinChecks_reason (p : Profile) (l : LocalSettings) : ∀ c ∈ joinChecks p l, c.2 ≠ .none := by
  simp [joinChecks]

theorem joinValidation_first (p : Profile) (l : LocalSettings) : FirstRefusal (joinChecks p l) (joinValidation p l) := by
  unfold joinValidation joinChecks
  refine .check ?lineSize (.check ?budget (.check ?cap (.check ?quantum (.check ?limit (.check ?station
    (.check ?weight rfl))))))
  case quantum =>
    simp only [quantaInRange_iff, List.any_cons, List.any_nil, Bool.or_false, Bool.or_eq_true, decide_eq_true_eq]
    omega
  case weight =>
    simp only [weightsInRange_iff, List.any_cons, List.any_nil, Bool.or_false, Bool.or_eq_true, decide_eq_true_eq]
    omega
  case cap => omega
  case station => omega
  all_goals
    simp only [Bool.or_eq_true, decide_eq_true_eq]
    omega

/-! ### What JOIN does in each state -/

theorem joinCommand_valid {t : Time} {s : State} (hs : s.cyc.state = .config ∨ s.cyc.state = .stopped)
    (hv : joinValidation s.mgt.profile s.mgt.settings = .none) :
    joinCommand t s =
      enterListen t
        { s with
          cyc := { s.cyc with joinAttempt := 0, echoFault := 0, leavePending := false }
          mgt := { s.mgt with refusal := .none } } := by
  unfold joinCommand
  rw [if_pos hs, hv]
  rfl

theorem joinCommand_invalid {t : Time} {s : State} (hs : s.cyc.state = .config ∨ s.cyc.state = .stopped)
    (hv : joinValidation s.mgt.profile s.mgt.settings ≠ .none) :
    joinCommand t s =
      raiseEvent .joinRef { s with mgt := { s.mgt with refusal := joinValidation s.mgt.profile s.mgt.settings } } := by
  unfold joinCommand
  rw [if_pos hs]
  exact if_neg hv

theorem joinCommand_refused {t : Time} {s : State} (hc : s.cyc.state ≠ .config) (hs : s.cyc.state ≠ .stopped) :
    joinCommand t s = refuseCommand s := if_neg (not_or.mpr ⟨hc, hs⟩)

end Sys2Proof.Machine

open Sys2Proof Sys2Proof.Machine

/-- Settles O8. -/
theorem joinCommandEffects : Obligations.JoinCommand := by
  refine ⟨⟨?_, ?_, ?_⟩, fun p l => ⟨?_, ?_⟩⟩
  · intro t s hpin hs hv
    rw [exec_eq_next, nextState_join, hpin, if_neg (by simp), joinCommand_valid (s := endRead s) hs hv,
      enterListen_eq rfl]
    · rfl
    · rcases hs with hs | hs <;> simp [endRead, hs]
  · intro t s hpin hs hv
    rw [exec_eq_next, nextState_join, hpin, if_neg (by simp), joinCommand_invalid (s := endRead s) hs hv]
    rfl
  · intro t s hpin hc hs
    rw [exec_eq_next, nextState_join, hpin, if_neg (by simp), joinCommand_refused (s := endRead s) hc hs]
    rfl
  · exact (joinValidation_first p l).eq_none_iff (joinChecks_reason p l)
  · intro pre c post hsplit hpre hc
    refine FirstRefusal.eq_of_first (post := post) hpre hc ?_
    rw [← hsplit]
    exact joinValidation_first p l

end

section
/-! SUPPORT. What a request leaves in TXQ (R107 to R111), and the commands that find the line taken (R22, R91). -/

namespace Sys2Proof.Machine

theorem lineFree_eq_true {s : State} (htx : s.lif.tx = none) (hecho : s.lif.echo = none) : lineFree s = true :=
  (lineFree_iff s).mpr ⟨htx, hecho⟩

theorem lineFree_eq_false {s : State} (h : s.lif.tx ≠ none ∨ s.lif.echo ≠ none) : lineFree s = false := by
  rw [← Bool.not_eq_true, lineFree_iff, not_and_or]
  exact h

theorem nextState_ownBid_idle {s : State} (h : lineFree s = false) : nextState .ownBid s = s := by
  rw [nextState_ownBid, h]
  rfl

/-- TABLE_SEND at any other moment than the one of R70, or while the line is taken. -/
theorem nextState_tableSend_of_not {s : State}
    (h : s.ssu.tableOut = none ∨ s.alc.grants = none ∨ s.cyc.state ≠ .inStep ∨ s.cyc.position ≠ .dataFixed (some 0) ∨
      s.cyc.layout ≠ .placed ∨ lineFree s = false) : nextState .tableSend s = s := by
  cases hf : s.ssu.tableOut with
  | none => exact nextState_tableSend_idle (.inl hf)
  | some f =>
    cases hg : s.alc.grants with
    | none => exact nextState_tableSend_idle (.inr hg)
    | some g =>
      rw [nextState_tableSend hf hg, if_neg]
      rw [hf, hg] at h
      simp only [Bool.and_eq_true, decide_eq_true_eq, beq_iff_eq]
      rintro ⟨⟨⟨hfree, hstate⟩, hposition⟩, hlayout⟩
      rcases h with h | h | h | h | h | h
      · cases h
      · cases h
      · exact h hstate
      · exact h hposition
      · exact h hlayout
      · rw [h] at hfree
        cases hfree

theorem nextState_frameRequest_busy {s : State} (h : lineFree s = false) : nextState .frameRequest s = s := by
  cases hg : ownGrantedSlot s with
  | none => exact nextState_frameRequest_idle hg
  | some g =>
    obtain ⟨e, i, total⟩ := g
    rw [nextState_frameRequest hg, h]
    rfl

/-- A request outside the own granted slots finds none (R91). -/
theorem ownGrantedSlot_eq_none {s : State}
    (h : s.alc.grants = none ∨ s.cyc.state ≠ .inStep ∨ (∀ i, s.cyc.position ≠ .dataFixed (some i)) ∨
      ∃ g i, s.alc.grants = some g ∧ s.cyc.position = .dataFixed (some i) ∧
        ∀ e ∈ g.entries, e.station = ownNumber s → ¬(e.first ≤ i ∧ i < e.first + e.count)) :
    ownGrantedSlot s = none := by
  refine Option.eq_none_iff_forall_ne_some.mpr fun granted hgranted => ?_
  obtain ⟨e, i, total⟩ := granted
  obtain ⟨g, hgrants, hposition, hstate, -, hentry, hown, -⟩ := (ownGrantedSlot_eq_some _ _ _ _).mp hgranted
  rcases h with h | h | h | ⟨g', i', hgrants', hposition', h⟩
  · rw [hgrants] at h
    cases h
  · exact h hstate
  · exact h i hposition
  · rw [hgrants] at hgrants'
    rw [hposition] at hposition'
    cases hgrants'
    cases hposition'
    obtain ⟨hmem, hruns⟩ := entryAt_eq_some hentry
    exact h e hmem hown hruns

theorem nextState_frameRequest_granted {s : State} {g : GrantList} {e : Grant} {i : Nat} {d x : Time}
    (hgrants : s.alc.grants = some g) (hstate : s.cyc.state = .inStep) (hposition : s.cyc.position = .dataFixed (some i))
    (hd : s.cyc.dataStart = some d) (hx : s.cyc.dataEnd = some x) (hlt : d + us 16 * i < x)
    (hentry : entryAt g i = some e) (hown : e.station = ownNumber s) (htx : s.lif.tx = none)
    (hecho : s.lif.echo = none) :
    nextState .frameRequest s = transmit (frameFor e.cls (natByte (g.total - 1 - i)) s) (frameSupplied e.cls s) := by
  have hbefore : slotBeforeEnd i s.cyc = true := (slotBeforeEnd_iff _ _).mpr ⟨d, x, hd, hx, hlt⟩
  rw [nextState_frameRequest
    ((ownGrantedSlot_eq_some s e i g.total).mpr ⟨g, hgrants, hposition, hstate, hbefore, hentry, hown, rfl⟩),
    if_pos (lineFree_eq_true htx hecho)]

/-! ### The frame of the head, and what stays of it -/

section Head
variable {cls : Class} {remain : Byte} {d : Descriptor} {rest : List Descriptor} {s : State}

theorem frameFor_empty (h : s.txq.queues.get cls = []) : frameFor cls remain s = .empty ⟨ownNumber s, cls, remain⟩ := by
  simp only [frameFor, h]

theorem frameSupplied_empty (h : s.txq.queues.get cls = []) : frameSupplied cls s = s := by
  simp only [frameSupplied, h]

theorem frameFor_arriving (h : s.txq.queues.get cls = d :: rest) (hd : d.st = .arriving) :
    frameFor cls remain s = .empty ⟨ownNumber s, cls, remain⟩ := by
  simp only [frameFor, h, hd]

theorem frameSupplied_arriving (h : s.txq.queues.get cls = d :: rest) (hd : d.st = .arriving) :
    frameSupplied cls s = s := by
  simp only [frameSupplied, h, hd]

theorem frameFor_aborting (h : s.txq.queues.get cls = d :: rest) (hd : d.st = .aborting) :
    frameFor cls remain s = .abort ⟨ownNumber s, cls, d.seq.getD 0, remain⟩ := by
  simp only [frameFor, h, hd]

theorem frameSupplied_aborting (h : s.txq.queues.get cls = d :: rest) (hd : d.st = .aborting) :
    frameSupplied cls s =
      { s with txq := { s.txq with free := s.txq.free + d.bufs.length, queues := s.txq.queues.set cls rest } } := by
  simp only [frameSupplied, h, hd]

theorem frameFor_sending (h : s.txq.queues.get cls = d :: rest) (hd : d.st = .queued ∨ d.st = .sending) :
    frameFor cls remain s = .segment (segmentOf (ownNumber s) d remain) := by
  rcases hd with hd | hd <;> simp only [frameFor, h, hd]

theorem frameSupplied_sending (h : s.txq.queues.get cls = d :: rest) (hd : d.st = .queued ∨ d.st = .sending) :
    frameSupplied cls s = segmentSent cls d rest s := by
  rcases hd with hd | hd <;> simp only [frameSupplied, h, hd]

theorem segmentSent_more (hbufs : d.bufs ≠ []) (hnext : d.next + 1 ≠ d.segments) :
    segmentSent cls d rest s =
      { s with txq := { s.txq with
          free := s.txq.free + 1,
          queues := s.txq.queues.set cls
            ({ d with next := d.next + 1, bufs := d.bufs.tail, st := .sending } :: rest) } } := by
  have hfreed : d.bufs.length - d.bufs.tail.length = 1 := by
    have := List.length_pos_iff.mpr hbufs
    rw [List.length_tail]
    omega
  unfold segmentSent
  rw [if_neg hnext, hfreed]

theorem segmentSent_last (hnext : d.next + 1 = d.segments) (hnotify : d.notify = false) :
    segmentSent cls d rest s =
      { s with txq := { s.txq with free := s.txq.free + d.bufs.length, queues := s.txq.queues.set cls rest } } := by
  unfold segmentSent
  rw [if_pos hnext, hnotify]
  rfl

theorem segmentSent_notify (hnext : d.next + 1 = d.segments) (hnotify : d.notify = true) :
    segmentSent cls d rest s =
      takeNotice ⟨.sent, cls, d.seq, d.tag, none, false, 0⟩
        { s with txq := { s.txq with free := s.txq.free + d.bufs.length, queues := s.txq.queues.set cls rest } } := by
  unfold segmentSent
  rw [if_pos hnext, hnotify]
  rfl

end Head

/-! ### A notice does not look at TXQ -/

theorem beginDelivery_txq (c : Class) (q : Txq) (s : State) :
    beginDelivery c { s with txq := q } = { beginDelivery c s with txq := q } := by
  unfold beginDelivery
  cases s.dlv.queues.get c <;> rfl

theorem arbitrateDelivery_txq (q : Txq) (s : State) :
    arbitrateDelivery { s with txq := q } = { arbitrateDelivery s with txq := q } := by
  unfold arbitrateDelivery
  by_cases hw : weightedMode s = true
  · rw [if_pos (show weightedMode { s with txq := q } = true from hw), if_pos hw]
    cases chooseWeighted s.mgt.settings.weights s.dlv with
    | none => rfl
    | some choice =>
      obtain ⟨c, r⟩ := choice
      exact beginDelivery_txq c q { s with dlv := { s.dlv with pointer := c, run := r } }
  · rw [if_neg (show ¬weightedMode { s with txq := q } = true from hw), if_neg hw]
    cases chooseStrict s.dlv with
    | none => rfl
    | some c => exact beginDelivery_txq c q s

theorem arbitrate_txq (q : Txq) (s : State) : arbitrate { s with txq := q } = { arbitrate s with txq := q } := by
  unfold arbitrate
  cases s.trb.framer with
  | emitting r i => rfl
  | breakPending => rfl
  | idle =>
    cases s.dlv.notices with
    | cons n rest => rfl
    | nil => exact arbitrateDelivery_txq q s

theorem takeNotice_txq (n : Notice) (q : Txq) (s : State) :
    takeNotice n { s with txq := q } = { takeNotice n s with txq := q } := by
  unfold takeNotice
  split
  · exact arbitrate_txq q { s with dlv := { s.dlv with notices := s.dlv.notices ++ [{ n with lost := s.dlv.lost }], lost := 0 } }
  · rfl

end Sys2Proof.Machine

open Sys2Proof Sys2Proof.Machine

/-- Settles O40: the head of the entry's class queue decides the frame. -/
theorem ownDataSlots : Obligations.OwnDataSlots := by
  refine ⟨⟨?_, ?_⟩, ⟨?_, ?_⟩, ?_⟩
  · intro s f g hf hg hstate hposition hlayout htx hecho
    rw [exec_eq_next, nextState_tableSend hf hg, if_pos]
    · rfl
    · simp [lineFree_eq_true htx hecho, hstate, hposition, hlayout]
  · intro s h
    rw [exec_eq_next, nextState_tableSend_of_not]
    tauto
  · intro s g e i d x hgrants hstate hposition hd hx hlt hentry hown htx hecho remain sent empty
    have hnext := nextState_frameRequest_granted hgrants hstate hposition hd hx hlt hentry hown htx hecho
    constructor
    · intro hq
      rw [exec_eq_next, hnext, frameFor_empty hq, frameSupplied_empty hq]
      rfl
    intro h rest hq segment
    have hsegment : Frame.segment (segmentOf (ownNumber s) h (natByte (g.total - 1 - i))) = segment := by
      simp only [segmentOf, segment, natByte, beq_eq_decide]
      rfl
    refine ⟨fun hst => ?_, fun hst => ?_, fun hst hbufs hmore => ?_, fun hst hlast hnotify => ?_,
      fun hst hlast hnotify => ?_⟩
    · rw [exec_eq_next, hnext, frameFor_arriving hq hst, frameSupplied_arriving hq hst]
      rfl
    · rw [exec_eq_next, hnext, frameFor_aborting hq hst, frameSupplied_aborting hq hst]
      rfl
    · rw [exec_eq_next, hnext, frameFor_sending hq hst, frameSupplied_sending hq hst, hsegment,
        segmentSent_more hbufs hmore]
      rfl
    · rw [exec_eq_next, hnext, frameFor_sending hq hst, frameSupplied_sending hq hst, hsegment,
        segmentSent_last hlast hnotify]
      rfl
    · refine ⟨_, exec_eq_next _ _, ?_⟩
      rw [hnext, frameFor_sending hq hst, frameSupplied_sending hq hst, hsegment, segmentSent_notify hlast hnotify,
        takeNotice_txq]
      simp [transmit]
  · intro s h
    rw [exec_eq_next, nextState_frameRequest_idle (ownGrantedSlot_eq_none h)]
  · intro s h
    have hbusy := lineFree_eq_false h
    rw [exec_eq_next, exec_eq_next, exec_eq_next, nextState_ownBid_idle hbusy,
      nextState_tableSend_of_not (by simp [hbusy]), nextState_frameRequest_busy hbusy]
    exact ⟨rfl, rfl, rfl⟩

end

section
/-! SUPPORT. The Valid bids of a table and the data phase (R14, R18), and the rules of R4 and R7 frame by frame. -/

namespace Sys2Proof.Machine

theorem mem_validBids_iff (b : ValidBid) (t : BidTable) :
    b ∈ validBids t ↔ ∃ st : Station, (t.record st.val).status = .valid b := by
  unfold validBids
  rw [List.mem_filterMap]
  refine exists_congr fun st => ?_
  cases (t.record st.val).status <;> simp [mem_stations]

theorem Four.get_eq_zero_iff (f : Four Nat) :
    (∀ c : Sys2Proof.Class, f.get c = 0) ↔ f.c0 = 0 ∧ f.c1 = 0 ∧ f.c2 = 0 ∧ f.c3 = 0 := by
  constructor
  · intro h
    exact ⟨h 0, h 1, h 2, h 3⟩
  · rintro ⟨h0, h1, h2, h3⟩ c
    match c with
    | 0 => exact h0
    | 1 => exact h1
    | 2 => exact h2
    | 3 => exact h3

theorem noGrantPossible_iff (t : BidTable) :
    noGrantPossible t = true ↔
      t.damage = false ∧
        ∀ (st : Station) (b : ValidBid), (t.record st.val).status = .valid b →
          (∀ c : Sys2Proof.Class, b.demand.get c = 0) ∧ b.flag ≠ .joining ∧ b.flag ≠ .resync := by
  simp only [noGrantPossible, Bool.and_eq_true, Bool.not_eq_true', List.all_eq_true, mem_validBids_iff, beq_iff_eq,
    bne_iff_ne, Four.get_eq_zero_iff]
  refine and_congr_right fun _ => ⟨fun h st b hb => ?_, fun h b hb => ?_⟩
  · obtain ⟨⟨⟨⟨⟨h0, h1⟩, h2⟩, h3⟩, hj⟩, hr⟩ := h b ⟨st, hb⟩
    exact ⟨⟨h0, h1, h2, h3⟩, hj, hr⟩
  · obtain ⟨st, hb⟩ := hb
    obtain ⟨⟨h0, h1, h2, h3⟩, hj, hr⟩ := h st b hb
    exact ⟨⟨⟨⟨⟨h0, h1⟩, h2⟩, h3⟩, hj⟩, hr⟩

/-- The layout of an open data phase (R14): the placement decision where there is an outcome. -/
def openLayout : Option Announcement → Layout
  | some o => layoutOf o.placed
  | none => .unknown

section
variable {t : Time} {s : State} {g : GrantList}

theorem fixDataPhase_noSlots (hg : s.alc.grants = some g) (h0 : g.total = 0) :
    fixDataPhase t s = gapAt t (layoutOf g.placed) s := by
  simp only [fixDataPhase, hg, h0, if_true]

theorem fixDataPhase_granted (hg : s.alc.grants = some g) (h0 : g.total ≠ 0) :
    fixDataPhase t s =
      { s with cyc := { s.cyc with
          position := .dataFixed (some 0), dataStart := some t,
          dataEnd := some (t + slotsTime dataSlotTime g.total), layout := layoutOf g.placed } } := by
  simp only [fixDataPhase, hg, h0, if_false]

theorem fixDataPhase_noGrant (hg : s.alc.grants = none) (h : noGrantPossible s.cyc.bids = true) :
    fixDataPhase t s = gapAt t .notPlaced s := by
  simp only [fixDataPhase, hg, h, if_true]

theorem fixDataPhase_open (hg : s.alc.grants = none) (h : noGrantPossible s.cyc.bids = false) :
    fixDataPhase t s =
      { s with cyc := { s.cyc with
          position := .dataOpen 0, dataStart := some t, dataEnd := none,
          layout := openLayout s.cyc.outcome } } := by
  simp only [fixDataPhase, hg, h]
  cases s.cyc.outcome <;> rfl

end

/-! ### R7 and R4 -/

theorem remainOk_iff (budget : Nat) (part : CyclePart) (count : Byte) :
    remainOk budget part count = true ↔
      (∀ i, part = .dataSlot i → count.toNat + i + 1 ≤ budget) ∧
        ((∀ i, part ≠ .dataSlot i) → count.toNat + 1 ≤ budget) := by
  cases part <;> simp [remainOk]

theorem fieldsOk_bid_iff (p : Profile) (part : CyclePart) (f : BidFrame) :
    fieldsOk p part (.bid f) = true ↔ f.station.val < p.lineSize ∧ ∀ k, part = .bidSlot k → f.station.val = k := by
  cases part <;> simp [fieldsOk]

theorem beq_decide_iff {b : Bool} {q : Prop} [Decidable q] : (b == decide q) = true ↔ (b = true ↔ q) := by
  cases b <;> simp

theorem fieldsOk_segment_iff (p : Profile) (part : CyclePart) (f : SegmentFrame) :
    fieldsOk p part (.segment f) = true ↔
      f.src.val < p.lineSize ∧ 1 ≤ f.len.toNat ∧ f.len.toNat ≤ 1024 ∧ f.index.toNat < segmentCount f.len.toNat ∧
        (f.first = true ↔ f.index.toNat = 0) ∧ (f.last = true ↔ f.index.toNat + 1 = segmentCount f.len.toNat) ∧
        remainOk p.budget part f.remain = true := by
  simp only [fieldsOk, Bool.and_eq_true, decide_eq_true_eq, beq_decide_iff, and_assoc]

end Sys2Proof.Machine

open Sys2Proof Sys2Proof.Machine

/-- Settles O38: the four cases of `fixDataPhase`. -/
theorem dataPhaseFixed : Obligations.DataPhaseFixed := by
  intro t s atOnce impossible
  have himpossible : noGrantPossible s.cyc.bids = true ↔ impossible := noGrantPossible_iff s.cyc.bids
  refine ⟨fun g hg h0 => ?_, fun g hg h0 => ?_, fun hg h => ?_, fun hg h => ?_⟩
  · rw [fixDataPhase_noSlots hg h0]
    rfl
  · rw [fixDataPhase_granted hg h0]
    rfl
  · rw [fixDataPhase_noGrant hg (himpossible.mpr h)]
    rfl
  · rw [fixDataPhase_open hg (Bool.eq_false_iff.mpr (mt himpossible.mp h))]
    cases s.cyc.outcome <;> rfl

/-- Settles O25: the classification of a slot, and the rules of R7 and R4 kind by kind. -/
theorem slotClassification : Obligations.SlotClassification := by
  refine ⟨fun p part nominal spanEnd own line => ⟨?_, fun f r => ?_, ?_, ?_⟩, fun kind n => ?_, fun p part => ?_⟩
  · exact classifySlot_eq_silent p part nominal spanEnd own line
  · have hecho : echoAgrees own f = true ↔ own = none ∨ own = some f := by
      cases own with
      | none => simp [echoAgrees]
      | some copy =>
        simp only [echoAgrees, beq_iff_eq, reduceCtorEq, false_or, Option.some.injEq]
        exact eq_comm
    rw [classifySlot_eq_valid, judgeBits_eq_some, inTime_iff, hecho]
    simp only [and_assoc, halfWindow]
  · cases classifySlot p part nominal spanEnd own line <;> simp
  · rw [echoPassed_iff]
    refine exists_congr fun f => ?_
    rw [← exists_and_left]
    refine exists_congr fun r => ?_
    rw [judgeBits_eq_some, inTime_iff]
    simp only [halfWindow]
    tauto
  · cases kind <;> simp [kindAllowed]
  · refine ⟨fun st check => ?_, fun f => fieldsOk_bid_iff p part f, fun f => ?_, fun f => ?_, fun f => ?_, fun f => ?_⟩
    · simp only [fieldsOk, decide_eq_true_eq]
      rfl
    · rw [fieldsOk_segment_iff, remainOk_iff]
      rfl
    · simp only [fieldsOk, Bool.and_eq_true, decide_eq_true_eq, remainOk_iff]
      rfl
    · simp only [fieldsOk, Bool.and_eq_true, decide_eq_true_eq, remainOk_iff]
      rfl
    · simp only [fieldsOk, Bool.and_eq_true, decide_eq_true_eq]
      rfl

end

section
/-! SUPPORT. The end of a transmission (R17, R22, R33, R70). -/

namespace Sys2Proof.Machine

/-- TXEN is deasserted (R22). -/
def endTx (s : State) : State := { s with lif := { s.lif with tx := none } }

theorem nextState_transmissionEnd_eq {t : Time} {s : State} {f : Frame} (h : s.lif.tx = some f) :
    nextState (.transmissionEnd t) s = afterTransmission t f (endTx s) := nextState_transmissionEnd h

/-- Counters after the transmission of `f` (R70): TablesSent, for a TABLE. -/
def sentMgt (f : Frame) (m : Mgt) : Mgt :=
  if f.kind = .table then
    { m with counters := m.counters.set .tablesSent (saturatingSucc (m.counters.get .tablesSent)) }
  else m

theorem countTablesSent_eq (f : Frame) (s : State) :
    (if f.kind = .table then countEvent .tablesSent s else s) = { s with mgt := sentMgt f s.mgt } := by
  unfold sentMgt
  split <;> rfl

/-- A slot or a reception will still judge the echo of the own frame (R11, notes/assumptions/25.md). -/
def echoAwaited (l : Lif) : Bool :=
  match l.echo with
  | some e => e.carrierSeen && decide (e.result = none)
  | none => false

theorem echoOver_eq (s : State) : echoOver s = !echoAwaited s.lif := by
  unfold echoOver echoAwaited
  cases s.lif.echo with
  | none => rfl
  | some e =>
    simp only
    cases e.carrierSeen <;> cases e.result <;> rfl

section
variable {t : Time} {f : Frame} {s : State}

theorem afterTransmission_finishing (h : s.lif.receiver = .finishing) :
    afterTransmission t f s =
      if echoOver s then switchReceiverOff { s with mgt := sentMgt f s.mgt } else { s with mgt := sentMgt f s.mgt } := by
  unfold afterTransmission
  rw [countTablesSent_eq]
  exact if_pos h

theorem afterTransmission_founding (h : s.lif.receiver ≠ .finishing) (hf : f.kind = .start)
    (hs : s.cyc.state = .starting) : afterTransmission t f s = settleStartEcho t (foundLine t s) := by
  have hmgt : sentMgt f s.mgt = s.mgt := by simp [sentMgt, hf]
  unfold afterTransmission
  rw [countTablesSent_eq, hmgt]
  simp only [h, hf, hs, if_false, decide_true, Bool.and_self, if_true]

theorem afterTransmission_other (h : s.lif.receiver ≠ .finishing) (hf : ¬(f.kind = .start ∧ s.cyc.state = .starting)) :
    afterTransmission t f s =
      if (s.cyc.position = .none ∨ f.kind = .start) ∧ echoOver s = true then
        { s with lif := { s.lif with echo := none }, mgt := sentMgt f s.mgt }
      else { s with mgt := sentMgt f s.mgt } := by
  unfold afterTransmission
  rw [countTablesSent_eq]
  simp only [h, if_false, Bool.and_eq_true, Bool.or_eq_true, decide_eq_true_eq, hf]
  rfl

end

/-! ### The founder's echo (R33) -/

section
variable {t : Time} {s : State} {e : EchoWatch}

/-- The result of the echo is still to come. -/
theorem settleStartEcho_awaited (he : s.lif.startEcho = some e) (hr : e.result = none) (hc : e.carrierSeen = true) :
    settleStartEcho t s = s := by
  simp only [settleStartEcho, he, hr, hc, if_true]

theorem settleStartEcho_passed (he : s.lif.startEcho = some e) (hr : e.result = some true) :
    settleStartEcho t s = { s with lif := { s.lif with startEcho := none } } := by
  simp only [settleStartEcho, he, hr]

/-- The echo has failed, or is missing: no carrier has been seen. -/
theorem settleStartEcho_failed (he : s.lif.startEcho = some e)
    (h : e.result = some false ∨ (e.result = none ∧ e.carrierSeen = false)) :
    settleStartEcho t s = startEchoFailed t { s with lif := { s.lif with startEcho := none } } := by
  rcases h with h | ⟨h, hc⟩
  · simp only [settleStartEcho, he, h]
  · simp only [settleStartEcho, he, h, hc]
    rfl

end

theorem foundLine_startEcho (t : Time) (s : State) : (foundLine t (endTx s)).lif.startEcho = s.lif.startEcho := by
  simp [endTx]

/-- The line is founded from STARTING (R17, R33). -/
theorem foundLine_eq {t : Time} {s : State} (hs : s.cyc.state = .starting) :
    foundLine t s =
      { s with
        cyc := { s.cyc with
          state := .inStep, joinAttempt := 0, timingLock := true, lineLost := .running t, position := .gap,
          boundaryDue := true, cycleStart := some (t + us 10), annStart := some (t + us 10 + us 10),
          dataStart := none, dataEnd := none, unslottedUntil := some (t + us 10 - 500), fixedAt := some t,
          layout := .unknown, bids := BidTable.clear },
        ssu := { s.ssu with
          sched := ⟨0, (ownNumber s).val, stations.map (fun k => ⟨k == ownNumber s, 0, 0, 0, 0⟩)⟩,
          digest :=
            (Sched.mk 0 (ownNumber s).val (stations.map (fun k => ⟨k == ownNumber s, 0, 0, 0, 0⟩))).digest },
        mgt := { s.mgt with
          events := { s.mgt.events with state := true }, arisen := { s.mgt.arisen with state := true } } } := by
  unfold foundLine enterInStep
  rw [enterState_of_ne (by simp [hs])]
  simp only [withSched, fixCycleByStart, gapAt, restartLineLost, raiseEvent, EventFlags.set, foundingSched, gapTime,
    halfWindow]

end Sys2Proof.Machine

open Sys2Proof Sys2Proof.Machine

/-- Settles O17: the founder's START against its echo, and the end of any other transmission. -/
theorem transmissionEnd : Obligations.TransmissionEnd := by
  refine ⟨⟨?_, ?_⟩, ?_, ?_⟩
  · intro t s st check result htx hecho hresult hrecv hstate
    rw [exec_eq_next, nextState_transmissionEnd_eq htx, afterTransmission_founding (s := endTx s) (by simp [endTx, hrecv]) rfl hstate]
    have hfound := (foundLine_startEcho t s).trans hecho
    match result, hecho, hfound, hresult with
    | none, hecho, hfound, _ =>
      rw [settleStartEcho_awaited hfound rfl rfl, foundLine_eq (s := endTx s) hstate]
      simp only [if_true, ← hecho]
      rfl
    | some true, _, hfound, _ =>
      rw [settleStartEcho_passed hfound rfl, foundLine_eq (s := endTx s) hstate]
      rfl
    | some false, _, _, hresult => exact absurd rfl hresult
  · intro t s st check seen result htx hecho hresult hrecv hstate hleave
    refine ⟨_, exec_eq_next _ _, ?_⟩
    rw [nextState_transmissionEnd_eq htx, afterTransmission_founding (s := endTx s) (by simp [endTx, hrecv]) rfl hstate,
      settleStartEcho_failed ((foundLine_startEcho t s).trans hecho) hresult, foundLine_eq (s := endTx s) hstate,
      startEchoFailed_eq, enterListen_eq ?leave ?state]
    case leave => exact hleave
    case state => simp
    simp [endTx, hrecv]
  · intro t s htx
    rw [exec_eq_next, nextState_transmissionEnd_idle htx]
  · intro t s f htx mgt awaited
    have hnext := nextState_transmissionEnd_eq (t := t) htx
    have hawaited : awaited = echoAwaited s.lif := rfl
    have hover : echoOver (endTx s) = !awaited := by
      rw [echoOver_eq, hawaited]
      rfl
    refine ⟨fun hrecv hkind hposition => ?_, fun hrecv hcase => ?_, fun hrecv => ?_⟩
    · rw [exec_eq_next, hnext, afterTransmission_other (s := endTx s) (by simp [endTx, hrecv]) (by simp [hkind]),
        if_neg (by simp [endTx, hkind, hposition])]
      rfl
    · have hother : ¬(f.kind = .start ∧ s.cyc.state = .starting) := by tauto
      have hlost : s.cyc.position = .none ∨ f.kind = .start := by tauto
      rw [exec_eq_next, hnext, afterTransmission_other (s := endTx s) (by simp [endTx, hrecv]) hother, hover]
      cases awaited
      · rw [if_pos ⟨hlost, rfl⟩]
        rfl
      · rw [if_neg (by simp)]
        rfl
    · rw [exec_eq_next, hnext, afterTransmission_finishing (s := endTx s) hrecv, hover]
      cases awaited <;> rfl

end

section
/-! SUPPORT. The steps of a bid report (R29, R30, R37, R39, R44, R48), and the report of a bid slot as the sequence of
them (R10). -/

namespace Sys2Proof.Machine

/-! ### Entry into HALTED -/

theorem enterHalted_cause {cause : HaltCause} {s : State} (h : s.cyc.state ≠ .halted) :
    (enterHalted cause s).cyc.state = .halted ∧ (enterHalted cause s).cyc.haltCause = cause ∧
      (enterHalted cause s).cyc.position = .none := by
  unfold enterHalted
  rw [if_neg h]
  exact ⟨by simp, by simp, by simp [endSession, loseTiming]⟩

theorem not_halted_of_active {st : StationState} (h : st.inactive = false) : st ≠ .halted := by
  rintro rfl
  cases h

theorem inactive_of_halted {s : State} (h : s.cyc.state = .halted) : s.cyc.state.inactive = true := by
  rw [h]
  rfl

/-! ### Blindness (R37) -/

/-- The state after an IN_STEP station has been blinded (R37). -/
def blinded (st : StationState) : StationState := if st = .inStep then .blind else st

/-- STATE and BlindCycles, where the station is IN_STEP (R24, R37). -/
def blindedMgt (st : StationState) (m : Mgt) : Mgt :=
  if st = .inStep then
    { m with
      events := { m.events with state := true }, arisen := { m.arisen with state := true },
      counters := m.counters.set .blindCycles (saturatingSucc (m.counters.get .blindCycles)) }
  else m

theorem goBlind_of_damage {s : State} (h : s.cyc.bids.damage = true) :
    goBlind s = { s with cyc := { s.cyc with state := blinded s.cyc.state }, mgt := blindedMgt s.cyc.state s.mgt } := by
  unfold goBlind blinded blindedMgt
  by_cases hs : s.cyc.state = .inStep
  · rw [if_pos (by simp [hs, h]), enterState_of_ne (by simp [hs]), if_pos hs, if_pos hs]
    rfl
  · rw [if_neg (by simp [hs]), if_neg hs, if_neg hs]

theorem goBlind_of_undamaged {s : State} (h : s.cyc.state = .inStep → s.cyc.bids.damage = false) : goBlind s = s := by
  unfold goBlind
  rw [if_neg]
  simp only [Bool.and_eq_true, decide_eq_true_eq, not_and, Bool.not_eq_true]
  exact h

@[simp] theorem blinded_inactive (st : StationState) : (blinded st).inactive = st.inactive := by
  cases st <;> rfl

@[simp] theorem blinded_bids (st : StationState) : (blinded st).bids = st.bids := by
  cases st <;> rfl

@[simp] theorem blinded_hearsDuplicates (st : StationState) : (blinded st).hearsDuplicates = st.hearsDuplicates := by
  cases st <;> rfl

@[simp] theorem blinded_eq_listen (st : StationState) : blinded st = .listen ↔ st = .listen := by
  cases st <;> simp [blinded]

theorem blindedMgt_damagedFrames (st : StationState) (m : Mgt) :
    (blindedMgt st m).counters.get .damagedFrames = m.counters.get .damagedFrames := by
  unfold blindedMgt
  split <;> rfl

theorem blindedMgt_blindCycles (st : StationState) (m : Mgt) :
    (blindedMgt st m).counters.get .blindCycles =
      if st = .inStep then saturatingSucc (m.counters.get .blindCycles) else m.counters.get .blindCycles := by
  unfold blindedMgt
  split <;> rfl

@[simp] theorem blindedMgt_profile (st : StationState) (m : Mgt) : (blindedMgt st m).profile = m.profile := by
  unfold blindedMgt
  split <;> rfl

@[simp] theorem blindedMgt_settings (st : StationState) (m : Mgt) : (blindedMgt st m).settings = m.settings := by
  unfold blindedMgt
  split <;> rfl

/-! ### Profile and number (R29, R30) -/

/-- A comparison has passed, or none was due: the first one in LISTEN is noted (R29). -/
def profileNoted (s : State) : State :=
  { s with cyc := { s.cyc with profileChecked := decide (s.cyc.state = .listen) || s.cyc.profileChecked } }

/-- No mismatch: the first comparison in LISTEN passes, and is noted (R29). -/
theorem compareProfile_of_match {check : Byte} {s : State}
    (h : s.cyc.state = .listen → s.cyc.profileChecked = true ∨ check = ownCheck s) :
    compareProfile check s = profileNoted s := by
  unfold compareProfile profileNoted
  by_cases hs : s.cyc.state = .listen
  · by_cases hp : s.cyc.profileChecked = true
    · have hkept : (decide (s.cyc.state = .listen) || s.cyc.profileChecked) = s.cyc.profileChecked := by simp [hp]
      rw [if_neg (by simp [hp]), hkept]
    · rw [if_pos (by simp [hs, hp]), if_pos ((h hs).resolve_left hp)]
      simp only [hs, decide_true, Bool.true_or]
  · rw [if_neg (by simp [hs])]
    simp only [hs, decide_false, Bool.false_or]

theorem compareProfile_of_mismatch {check : Byte} {s : State} (hs : s.cyc.state = .listen)
    (hp : s.cyc.profileChecked = false) (h : check ≠ ownCheck s) :
    compareProfile check s = enterHalted .profileMismatch s := by
  unfold compareProfile
  rw [if_pos (by simp [hs, hp]), if_neg h]

theorem checkDuplicate_of_not {st : Station} {own : Bool} {s : State}
    (h : ¬(st = ownNumber s ∧ own = false ∧ s.cyc.state.hearsDuplicates = true)) : checkDuplicate st own s = s :=
  if_neg (mt (isDuplicate_iff st own s).mp h)

theorem checkDuplicate_of_duplicate {st : Station} {s : State} (hst : st = ownNumber s)
    (h : s.cyc.state.hearsDuplicates = true) : checkDuplicate st false s = enterHalted .duplicateNumber s :=
  if_pos ((isDuplicate_iff st false s).mpr ⟨hst, rfl, h⟩)

theorem checkDuplicate_halted {st : Station} {own : Bool} {s : State} (h : s.cyc.state = .halted) :
    checkDuplicate st own s = s := by
  refine checkDuplicate_of_not ?_
  rintro ⟨-, -, hd⟩
  rw [h] at hd
  cases hd

/-! ### The echo of an own bid (R39), and leaving (R44) -/

theorem countEcho_passed {s : State} (h : s.cyc.state.bids = true) :
    countEcho true s = { s with cyc := { s.cyc with echoFault := 0 } } := by
  unfold countEcho
  rw [if_pos h]
  rfl

/-- A failure that is not the third in a row. -/
theorem countEcho_failed {s : State} (h : s.cyc.state.bids = true) (hf : s.cyc.echoFault < 2) :
    countEcho false s = { s with cyc := { s.cyc with echoFault := s.cyc.echoFault + 1 } } := by
  unfold countEcho
  rw [if_pos h, if_neg (by simp)]
  exact if_neg (by simp only; omega)

theorem countEcho_failed_third {s : State} (h : s.cyc.state.bids = true) (hf : s.cyc.echoFault = 2) :
    countEcho false s = enterHalted .echoFault { s with cyc := { s.cyc with echoFault := s.cyc.echoFault + 1 } } := by
  unfold countEcho
  rw [if_pos h, if_neg (by simp)]
  exact if_pos (by simp only; omega)

theorem leaveAfterBid_staying {own : Option Frame} {s : State} (h : isLeavingBid own = false ∨ s.cyc.state.bids = false) :
    leaveAfterBid own s = s := by
  unfold leaveAfterBid
  rw [if_neg]
  rcases h with h | h <;> simp [h]

theorem leaveAfterBid_leaving {own : Option Frame} {s : State} (h : isLeavingBid own = true)
    (hb : s.cyc.state.bids = true) : leaveAfterBid own s = enterState .leaving s := by
  unfold leaveAfterBid
  rw [if_pos (by simp [h, hb])]

/-! ### The record of a Valid BID (R48) -/

theorem enterBid_accepted {k : Nat} {own : Bool} {f : BidFrame} {s : State}
    (h : bidAccepted s.mgt.profile f = true) :
    enterBid k own f s =
      enterRecord k ⟨.valid ⟨f.station, f.cycle, bidFlag f, f.digest, bidDemand f⟩, own,
        if own then some true else none, false⟩ s := by
  unfold enterBid bidStatus
  rw [if_pos h, if_pos h]

theorem enterBid_refused {k : Nat} {own : Bool} {f : BidFrame} {s : State}
    (h : bidAccepted s.mgt.profile f = false) :
    enterBid k own f s =
      countEvent .damagedFrames (enterRecord k ⟨.damaged, own, if own then some true else none, false⟩ s) := by
  unfold enterBid bidStatus
  simp only [h, Bool.false_eq_true, if_false]

/-- The acceptance of R48, as its three matters. -/
theorem bidAccepted_eq_true_iff (p : Profile) (f : BidFrame) :
    bidAccepted p f = true ↔
      ¬(f.leaving = true ∧ f.resync = true) ∧ ¬(f.leaving = true ∧ f.joining = true) ∧
        ¬(f.resync = true ∧ f.joining = true) ∧ f.check = p.check ∧
        ∀ c : Sys2Proof.Class, (f.demand.get c).toNat ≤ p.budget := by
  rw [bidAccepted_iff, flagClash_eq_false]
  have hdemand : (∀ c : Sys2Proof.Class, (f.demand.get c).toNat ≤ p.budget) ↔
      f.demand.c0.toNat ≤ p.budget ∧ f.demand.c1.toNat ≤ p.budget ∧ f.demand.c2.toNat ≤ p.budget ∧
        f.demand.c3.toNat ≤ p.budget := by
    constructor
    · intro h
      exact ⟨h 0, h 1, h 2, h 3⟩
    · rintro ⟨h0, h1, h2, h3⟩ c
      match c with
      | 0 => exact h0
      | 1 => exact h1
      | 2 => exact h2
      | 3 => exact h3
  rw [hdemand]
  simp only [and_assoc]

theorem bidDemand_eq (f : BidFrame) :
    bidDemand f =
      if f.joining || f.resync || f.leaving then Four.all 0
      else ⟨f.demand.c0.toNat, f.demand.c1.toNat, f.demand.c2.toNat, f.demand.c3.toNat⟩ := by
  unfold bidDemand bidFlag
  cases f.joining <;> cases f.resync <;> cases f.leaving <;> rfl

/-! ### The report of a bid slot -/

/-- What follows the report of bid slot `k` (R10, R14, R18): the next slot, or after the last the end of the
announcement phase that starts at `start`. -/
def afterBidSlot (lineSize k : Nat) (start : Time) (s : State) : State :=
  if k + 1 < lineSize then { s with cyc := { s.cyc with position := .announce (k + 1) } }
  else endAnnouncement (start + us 6 * (lineSize : Nat)) s

theorem dropSlotEcho_of_none {s : State} (h : s.lif.echo = none) : dropSlotEcho s = s := by
  unfold dropSlotEcho
  rw [← h]

/-- What a slot report of bid slot `k` enters, from a state whose record of that slot is unheard. -/
def bidReportEntered (k : Nat) (a : Time) (line : SpanLine) (s : State) : State :=
  enterBidReport k (ownSlotFrame s)
    (echoPassed s.mgt.profile (.bidSlot k) (a + us 6 * k) (a + us 6 * k + us 6 - 500) (ownSlotFrame s) line)
    (classifySlot s.mgt.profile (.bidSlot k) (a + us 6 * k) (a + us 6 * k + us 6 - 500) (ownSlotFrame s) line)
    (dropSlotEcho s)

/-- The end of bid slot `k`'s span, once its report is entered. -/
def bidSlotEnd (k : Nat) (a : Time) (s : State) : State :=
  endBidSlot k (s.cyc.annStart.getD a + slotsTime bidSlotTime s.mgt.profile.lineSize) s

section
variable {k : Nat} {a : Time} {line : SpanLine} {s : State}

theorem nextState_slotReport_announce (hactive : s.cyc.state.inactive = false) (hp : s.cyc.position = .announce k)
    (ha : s.cyc.annStart = some a) : nextState (.slotReport line) s = bidSlotReport k a line s := by
  rw [nextState_slotReport]
  simp only [slotReport, hactive, hp, ha]
  rfl

theorem endBidSlot_active (h : s.cyc.state.inactive = false) :
    endBidSlot k (a + slotsTime bidSlotTime s.mgt.profile.lineSize) s = afterBidSlot s.mgt.profile.lineSize k a s := by
  unfold endBidSlot
  rw [h]
  rfl

theorem bidSlotReport_eq :
    bidSlotReport k a line s =
      bidSlotEnd k a
        (if (s.cyc.bids.record k).status = .unheard then bidReportEntered k a line s
          else dropSlotEcho s) := rfl

/-- The record entered already is kept (R47). -/
theorem bidSlotReport_entered (hactive : s.cyc.state.inactive = false) (ha : s.cyc.annStart = some a)
    (h : (s.cyc.bids.record k).status ≠ .unheard) :
    bidSlotReport k a line s = afterBidSlot s.mgt.profile.lineSize k a (dropSlotEcho s) := by
  rw [bidSlotReport_eq, if_neg h, bidSlotEnd, show (dropSlotEcho s).cyc.annStart = some a from ha]
  exact endBidSlot_active (s := dropSlotEcho s) hactive

theorem bidSlotReport_unheard (h : (s.cyc.bids.record k).status = .unheard) :
    bidSlotReport k a line s = bidSlotEnd k a (bidReportEntered k a line s) := by
  rw [bidSlotReport_eq, if_pos h]

/-- The report leaves the station active: the next slot follows. -/
theorem nextState_bidSlot_active {b : Time} {u : State} (hactive : s.cyc.state.inactive = false)
    (hp : s.cyc.position = .announce k) (ha : s.cyc.annStart = some a)
    (h : (s.cyc.bids.record k).status = .unheard) (hu : bidReportEntered k a line s = u)
    (hua : u.cyc.state.inactive = false) (hub : u.cyc.annStart = some b) (hup : u.mgt.profile = s.mgt.profile) :
    nextState (.slotReport line) s = afterBidSlot s.mgt.profile.lineSize k b u := by
  rw [nextState_slotReport_announce hactive hp ha, bidSlotReport_unheard h, hu, bidSlotEnd, hub, ← hup]
  exact endBidSlot_active hua

/-- The report ends the session: nothing follows. -/
theorem nextState_bidSlot_inactive {u : State} (hactive : s.cyc.state.inactive = false)
    (hp : s.cyc.position = .announce k) (ha : s.cyc.annStart = some a)
    (h : (s.cyc.bids.record k).status = .unheard) (hu : bidReportEntered k a line s = u)
    (hua : u.cyc.state.inactive = true) : nextState (.slotReport line) s = u := by
  rw [nextState_slotReport_announce hactive hp ha, bidSlotReport_unheard h, hu]
  exact if_pos hua

end

/-! ### What a report enters, class by class -/

section
variable {k : Nat} {own : Option Frame} {passed : Bool} {f : BidFrame} {r : Reception} {s : State}

theorem enterBidReport_silent : enterBidReport k own passed .silent s = enterRecord k ⟨.silent, false, none, false⟩ s := rfl

/-- A Damaged slot without an own frame. -/
theorem enterBidReport_damaged_heard :
    enterBidReport k none passed .damaged s =
      goBlind (countEvent .damagedFrames (enterRecord k ⟨.damaged, false, none, false⟩ s)) := by
  simp only [enterBidReport, Option.isSome_none, Bool.false_eq_true, if_false, isLeavingBid]
  exact leaveAfterBid_staying (.inl rfl)

/-- A Damaged slot of an own bid. -/
theorem enterBidReport_damaged_own {g : BidFrame} :
    enterBidReport k (some (.bid g)) passed .damaged s =
      leaveAfterBid (some (.bid g)) (countEcho passed
        (if g.leaving then countEvent .damagedFrames (enterRecord k ⟨.damaged, true, some passed, false⟩ s)
          else goBlind (countEvent .damagedFrames (enterRecord k ⟨.damaged, true, some passed, false⟩ s)))) := by
  simp only [enterBidReport, Option.isSome_some, if_true, isLeavingBid]

/-- A Valid BID of another station. -/
theorem enterBidReport_valid_heard :
    enterBidReport k none passed (.valid (.bid f) r) s =
      checkDuplicate f.station false
        (compareProfile f.check (goBlind (enterBid k false f (refreshCycle k r s)))) := by
  simp only [enterBidReport, Option.isSome_none, Bool.false_eq_true, if_false]
  exact leaveAfterBid_staying (.inl rfl)

/-- The own BID, heard back. -/
theorem enterBidReport_valid_own {g : BidFrame} :
    enterBidReport k (some (.bid g)) passed (.valid (.bid f) r) s =
      leaveAfterBid (some (.bid g)) (checkDuplicate f.station true
        (compareProfile f.check (countEcho true (goBlind (enterBid k true f (refreshCycle k r s)))))) := by
  simp only [enterBidReport, Option.isSome_some, if_true]

end

end Sys2Proof.Machine
end

section
/-! SUPPORT. The reports of a gap span and of a bid slot (R10, R13, R37, R48), for a station that did not transmit. -/

namespace Sys2Proof.Machine

theorem ownSlotFrame_of_none {s : State} (h : s.lif.echo = none) : ownSlotFrame s = none := by
  rw [ownSlotFrame, h]
  rfl

theorem gapDisturbed_iff (line : SpanLine) :
    gapDisturbed line = true ↔ line.carrierAtStart = true ∨ line.carrierAtEnd ≠ none ∨ line.heard ≠ [] := by
  simp [gapDisturbed, Option.isSome_iff_ne_none, or_assoc]

theorem nextState_slotReport_gap {line : SpanLine} {s : State} (hactive : s.cyc.state.inactive = false)
    (hp : s.cyc.position = .gap) (hdue : s.cyc.boundaryDue = false) :
    nextState (.slotReport line) s = gapReport line s := by
  rw [nextState_slotReport]
  simp only [slotReport, hactive, hp, hdue]
  rfl

theorem enterRecord_undamaged {k : Nat} {r : BidRecord} {s : State} (h : r.status ≠ .damaged) :
    enterRecord k r s =
      { s with cyc := { s.cyc with bids := ⟨s.cyc.bids.records.set k r, s.cyc.bids.damage⟩ } } := by
  have hr : (r.status == BidStatus.damaged) = false := beq_eq_false_iff_ne.mpr h
  simp only [enterRecord, BidTable.enter, hr, Bool.or_false]

theorem enterRecord_damaged {k : Nat} {r : BidRecord} {s : State} (h : r.status = .damaged) :
    enterRecord k r s = { s with cyc := { s.cyc with bids := ⟨s.cyc.bids.records.set k r, true⟩ } } := by
  simp only [enterRecord, BidTable.enter, h, beq_self_eq_true, Bool.or_true]

section
variable {k : Nat} {a : Time} {line : SpanLine} {s : State}

/-- What a report enters where this station did not transmit. -/
theorem bidReportEntered_heard (hecho : s.lif.echo = none) (c : SlotClass)
    (hc : classifySlot s.mgt.profile (.bidSlot k) (a + us 6 * k) (a + us 6 * k + us 6 - 500) none line = c) :
    bidReportEntered k a line s =
      enterBidReport k none
        (echoPassed s.mgt.profile (.bidSlot k) (a + us 6 * k) (a + us 6 * k + us 6 - 500) none line) c s := by
  rw [bidReportEntered, ownSlotFrame_of_none hecho, dropSlotEcho_of_none hecho, hc]

theorem bidReportEntered_silent (hecho : s.lif.echo = none) :
    bidReportEntered k a ⟨false, [], none⟩ s =
      { s with cyc := { s.cyc with
          bids := ⟨s.cyc.bids.records.set k ⟨.silent, false, none, false⟩, s.cyc.bids.damage⟩ } } := by
  rw [bidReportEntered_heard hecho .silent ((classifySlot_eq_silent _ _ _ _ _ _).mpr ⟨rfl, rfl⟩),
    enterBidReport_silent, enterRecord_undamaged (by simp)]

theorem bidReportEntered_damaged (hecho : s.lif.echo = none)
    (hc : classifySlot s.mgt.profile (.bidSlot k) (a + us 6 * k) (a + us 6 * k + us 6 - 500) none line = .damaged) :
    bidReportEntered k a line s =
      { s with
        cyc := { s.cyc with
          state := blinded s.cyc.state,
          bids := ⟨s.cyc.bids.records.set k ⟨.damaged, false, none, false⟩, true⟩ },
        mgt := blindedMgt s.cyc.state (countEvent .damagedFrames s).mgt } := by
  rw [bidReportEntered_heard hecho .damaged hc, enterBidReport_damaged_heard, enterRecord_damaged rfl,
    goBlind_of_damage rfl]
  rfl

end

end Sys2Proof.Machine

open Sys2Proof Sys2Proof.Machine

/-- Settles O26. -/
theorem gapAndBidSlotReports : Obligations.GapAndBidSlotReports := by
  refine ⟨?_, ?_⟩
  · intro line s hactive hp hdue
    rw [exec_eq_next, nextState_slotReport_gap hactive hp hdue, gapReport]
    by_cases h : gapDisturbed line = true
    · rw [if_pos h, if_pos ((gapDisturbed_iff line).mp h)]
      rfl
    · rw [if_neg h, if_neg (mt (gapDisturbed_iff line).mpr h)]
  · intro k a line s hactive hp ha hk ends
    refine ⟨fun hheard => ?_, fun hunheard hecho => ⟨?_, fun hc => ?_⟩⟩
    · rw [exec_eq_next, nextState_slotReport_announce hactive hp ha, bidSlotReport_entered hactive ha hheard]
      rfl
    · rw [exec_eq_next, nextState_bidSlot_active hactive hp ha hunheard (bidReportEntered_silent hecho) hactive ha rfl]
      rfl
    · rw [exec_eq_next, nextState_bidSlot_active hactive hp ha hunheard (bidReportEntered_damaged hecho hc)
        (by simpa using hactive) ha (by simp [countEvent])]
      unfold blinded blindedMgt
      split <;> rfl

end

section
/-! SUPPORT. The report of a bid slot with a Valid BID of another station (R15, R29, R30, R37, R48). -/

namespace Sys2Proof.Machine

/-- The judgment of a Valid BID in its slot (R4, R9). -/
theorem classifySlot_bid {p : Profile} {k : Nat} {nominal spanEnd : Time} {own : Option Frame} {line : SpanLine}
    {f : BidFrame} {r : Reception} (h : classifySlot p (.bidSlot k) nominal spanEnd own line = .valid (.bid f) r) :
    f.station.val = k := by
  obtain ⟨-, hjudged, -, -⟩ := (classifySlot_eq_valid _ _ _ _ _ _ _ _).mp h
  obtain ⟨-, -, hfields⟩ := (judgeBits_eq_some _ _ _ _).mp hjudged
  exact ((fieldsOk_bid_iff _ _ _).mp hfields).2 k rfl

/-- A bid refused by CYC's judgment, once entered and acted on by R37. -/
def refusedBid (k : Nat) (own : Bool) (s : State) : State :=
  { s with
    cyc := { s.cyc with
      state := blinded s.cyc.state,
      bids := ⟨s.cyc.bids.records.set k ⟨.damaged, own, if own then some true else none, false⟩, true⟩ },
    mgt := blindedMgt s.cyc.state (countEvent .damagedFrames s).mgt }

theorem goBlind_enterBid_refused {k : Nat} {own : Bool} {f : BidFrame} {s : State}
    (h : bidAccepted s.mgt.profile f = false) : goBlind (enterBid k own f s) = refusedBid k own s := by
  rw [enterBid_refused h, enterRecord_damaged rfl, goBlind_of_damage rfl]
  rfl

/-- An accepted bid, once entered. -/
def acceptedBid (k : Nat) (own : Bool) (f : BidFrame) (s : State) : State :=
  { s with cyc := { s.cyc with
      bids :=
        ⟨s.cyc.bids.records.set k
          ⟨.valid ⟨f.station, f.cycle, bidFlag f, f.digest, bidDemand f⟩, own, if own then some true else none, false⟩,
          s.cyc.bids.damage⟩ } }

theorem goBlind_enterBid_accepted {k : Nat} {own : Bool} {f : BidFrame} {s : State}
    (h : bidAccepted s.mgt.profile f = true) (hd : s.cyc.state = .inStep → s.cyc.bids.damage = false) :
    goBlind (enterBid k own f s) = acceptedBid k own f s := by
  rw [enterBid_accepted h, enterRecord_undamaged (by simp), goBlind_of_undamaged (by exact hd)]
  rfl

/-- R37 leaves LISTEN, and what a station hears of its number, as they are. -/
theorem goBlind_enterBid_kept (k : Nat) (own : Bool) (f : BidFrame) (s : State) :
    let u := goBlind (enterBid k own f s)
    (u.cyc.state = .listen ↔ s.cyc.state = .listen) ∧ u.cyc.profileChecked = s.cyc.profileChecked ∧
      u.cyc.state.hearsDuplicates = s.cyc.state.hearsDuplicates ∧ u.mgt.profile = s.mgt.profile ∧
      u.mgt.settings = s.mgt.settings ∧ u.cyc.state.inactive = s.cyc.state.inactive := by
  have hstate : (goBlind (enterBid k own f s)).cyc.state = s.cyc.state ∨
      (goBlind (enterBid k own f s)).cyc.state = blinded s.cyc.state := by
    by_cases hd : (enterBid k own f s).cyc.bids.damage = true
    · rw [goBlind_of_damage hd]
      exact .inr (by simp)
    · rw [goBlind_of_undamaged fun _ => by simpa using hd]
      exact .inl (by simp)
  refine ⟨?_, by simp, ?_, by simp, by simp, ?_⟩ <;> rcases hstate with h | h <;> rw [h] <;> simp

/-- The state in which the profile and the number of a BID heard in its slot are looked at. -/
theorem bidReportEntered_valid {k : Nat} {a : Time} {r : Reception} {f : BidFrame} {s : State}
    (hecho : s.lif.echo = none)
    (hc : classifySlot s.mgt.profile (.bidSlot k) (a + us 6 * k) (a + us 6 * k + us 6 - 500) none ⟨false, [r], none⟩ =
      .valid (.bid f) r) :
    bidReportEntered k a ⟨false, [r], none⟩ s =
      checkDuplicate f.station false
        (compareProfile f.check (goBlind (enterBid k false f (refreshCycle k r s)))) := by
  rw [bidReportEntered_heard hecho _ hc, enterBidReport_valid_heard]

end Sys2Proof.Machine

open Sys2Proof Sys2Proof.Machine

/-- Settles O27: the record, blindness, the comparison and the number, in that order. -/
theorem bidSlotHeard : Obligations.BidSlotHeard := by
  intro k a r f s hactive hp ha hk hunheard hecho hc accepted refreshed ends duplicate
  obtain rfl : f.station.val = k := classifySlot_bid hc
  have haccepted : bidAccepted s.mgt.profile f = true ↔ accepted := bidAccepted_eq_true_iff _ _
  have hduplicate : duplicate ↔ f.station = ownNumber s ∧ s.cyc.state.hearsDuplicates = true :=
    and_congr_left' Fin.ext_iff.symm
  have hentered := bidReportEntered_valid hecho hc
  have halts {u : State} {cause : HaltCause} (hu : u.cyc.state.inactive = s.cyc.state.inactive)
      (h : bidReportEntered f.station.val a ⟨false, [r], none⟩ s = enterHalted cause u) :
      ∃ t, exec (.slotReport ⟨false, [r], none⟩) s = .next t ∧ t.cyc.state = .halted ∧ t.cyc.haltCause = cause ∧
        t.cyc.position = .none := by
    have hcause := enterHalted_cause (cause := cause) (not_halted_of_active (hu.trans hactive))
    refine ⟨_, exec_eq_next _ _, ?_⟩
    rw [nextState_bidSlot_inactive hactive hp ha hunheard h (inactive_of_halted hcause.1)]
    exact hcause
  obtain ⟨hlistens, hchecked, hhears, hprofile, hsettings, hinactive⟩ :=
    goBlind_enterBid_kept f.station.val false f (refreshCycle f.station.val r s)
  set u := goBlind (enterBid f.station.val false f (refreshCycle f.station.val r s))
  have hmatches (h : s.cyc.state = .listen → s.cyc.profileChecked = true ∨ f.check = s.mgt.profile.check) :
      compareProfile f.check u = profileNoted u := by
    refine compareProfile_of_match fun hl => ?_
    rw [hchecked, ownCheck, hprofile]
    exact h (hlistens.mp hl)
  have hown : ownNumber u = ownNumber s := congrArg (fun l : LocalSettings => l.station.toFin) hsettings
  have hothers (hdup : ¬duplicate) : ¬(f.station = ownNumber u ∧ false = false ∧ u.cyc.state.hearsDuplicates = true) := by
    rintro ⟨hst, -, hd⟩
    exact hdup (hduplicate.mpr ⟨hst.trans hown, hhears.symm.trans hd⟩)
  refine ⟨fun hacc hdup hdamage => ?_, fun hacc hdup hmatch => ?_, fun hlisten hunchecked hcheck => ?_,
    fun hdup hmatch => ?_⟩
  · have hu : u = acceptedBid f.station.val false f (refreshCycle f.station.val r s) :=
      goBlind_enterBid_accepted (haccepted.mpr hacc) hdamage
    rw [hmatches fun _ => .inr hacc.2.2.2.1, checkDuplicate_of_not (s := profileNoted u) (hothers hdup), hu] at hentered
    rw [exec_eq_next, nextState_bidSlot_active hactive hp ha hunheard hentered hactive rfl rfl, acceptedBid,
      bidDemand_eq]
    rfl
  · have hu : u = refusedBid f.station.val false (refreshCycle f.station.val r s) :=
      goBlind_enterBid_refused (Bool.eq_false_iff.mpr (mt haccepted.mp hacc))
    have hlisten : decide (u.cyc.state = .listen) = decide (s.cyc.state = .listen) := decide_eq_decide.mpr hlistens
    rw [hmatches hmatch, checkDuplicate_of_not (s := profileNoted u) (hothers hdup), profileNoted, hlisten, hu] at hentered
    refine ⟨_, (exec_eq_next _ _).trans (congrArg _
      (nextState_bidSlot_active hactive hp ha hunheard hentered ?_ rfl ?_)), rfl, ?_, ?_, ?_⟩
    · exact (blinded_inactive _).trans hactive
    · exact blindedMgt_profile _ _
    · exact blindedMgt_damagedFrames _ _
    · exact blindedMgt_blindCycles _ _
    · exact ⟨blindedMgt_profile _ _, blindedMgt_settings _ _, rfl, rfl, rfl, rfl, rfl, rfl, rfl⟩
  · have hmismatch : f.check ≠ ownCheck u := by
      rw [ownCheck, hprofile]
      exact hcheck
    rw [compareProfile_of_mismatch (hlistens.mpr hlisten) (hchecked.trans hunchecked) hmismatch,
      checkDuplicate_halted (enterHalted_cause (not_halted_of_active (hinactive.trans hactive))).1] at hentered
    exact halts hinactive hentered
  · obtain ⟨hst, hd⟩ := hduplicate.mp hdup
    rw [hmatches hmatch, checkDuplicate_of_duplicate (s := profileNoted u) (hst.trans hown.symm) (hhears.trans hd)]
      at hentered
    exact halts (u := profileNoted u) hinactive hentered

end

section
/-! SUPPORT. The report of the own bid slot (R11, R37, R39, R44, R48). -/

namespace Sys2Proof.Machine

theorem BidTable.record_set_self {records : List BidRecord} {damage : Bool} {k : Nat} {r : BidRecord}
    (h : k < records.length) : BidTable.record ⟨records.set k r, damage⟩ k = r := by
  simp [BidTable.record, h]

theorem leaveAfterBid_state {g : BidFrame} {s : State} (hb : s.cyc.state.bids = true) :
    (leaveAfterBid (some (.bid g)) s).cyc.state = if g.leaving then .leaving else s.cyc.state := by
  cases hg : g.leaving with
  | true =>
    rw [leaveAfterBid_leaving (by exact hg) hb, enterState_state]
    rfl
  | false =>
    rw [leaveAfterBid_staying (.inl (by exact hg))]
    rfl

theorem leaveAfterBid_active {g : BidFrame} {s : State} (hb : s.cyc.state.bids = true) :
    (leaveAfterBid (some (.bid g)) s).cyc.state.inactive = false := by
  rw [leaveAfterBid_state hb]
  split
  · rfl
  · exact StationState.inactive_of_bids hb

/-- The echo-fault count after an echo result (R39). -/
def echoCounted (passed : Bool) (s : State) : State :=
  { s with cyc := { s.cyc with echoFault := if passed then 0 else s.cyc.echoFault + 1 } }

/-- An own echo that does not bring the third failure in a row (R39). -/
theorem countEcho_settled {passed : Bool} {s : State} (hb : s.cyc.state.bids = true)
    (h : passed = true ∨ s.cyc.echoFault < 2) :
    countEcho passed s = echoCounted passed s := by
  cases passed with
  | true => exact countEcho_passed hb
  | false => exact countEcho_failed hb (h.resolve_left (by simp))

theorem not_listen_of_bids {st : StationState} (h : st.bids = true) : st ≠ .listen := by
  rintro rfl
  cases h

section
variable {k : Nat} {a : Time} {line : SpanLine} {g : BidFrame} {s : State} {seen : Bool} {result : Option Bool}

theorem bidReportEntered_own (hecho : s.lif.echo = some ⟨.bid g, seen, result⟩) (c : SlotClass)
    (hc : classifySlot s.mgt.profile (.bidSlot k) (a + us 6 * k) (a + us 6 * k + us 6 - 500) (some (.bid g)) line = c) :
    bidReportEntered k a line s =
      enterBidReport k (some (.bid g))
        (echoPassed s.mgt.profile (.bidSlot k) (a + us 6 * k) (a + us 6 * k + us 6 - 500) (some (.bid g)) line) c
        (dropSlotEcho s) := by
  have hown : ownSlotFrame s = some (.bid g) := by
    rw [ownSlotFrame, hecho]
    rfl
  rw [bidReportEntered, hown, hc]

/-- The own BID, heard back and accepted, before the station may leave by it. -/
def ownBidHeard (k : Nat) (g : BidFrame) (r : Reception) (s : State) : State :=
  let u := acceptedBid k true g (refreshCycle k r (dropSlotEcho s))
  profileNoted { u with cyc := { u.cyc with echoFault := 0 } }

theorem bidReportEntered_ownValid {r : Reception} (hb : s.cyc.state.bids = true)
    (hecho : s.lif.echo = some ⟨.bid g, seen, result⟩)
    (hc : classifySlot s.mgt.profile (.bidSlot k) (a + us 6 * k) (a + us 6 * k + us 6 - 500) (some (.bid g)) line =
      .valid (.bid g) r)
    (hacc : bidAccepted s.mgt.profile g = true) (hdamage : s.cyc.state = .inStep → s.cyc.bids.damage = false) :
    bidReportEntered k a line s = leaveAfterBid (some (.bid g)) (ownBidHeard k g r s) := by
  have haccepted : goBlind (enterBid k true g (refreshCycle k r (dropSlotEcho s))) =
      acceptedBid k true g (refreshCycle k r (dropSlotEcho s)) := goBlind_enterBid_accepted hacc hdamage
  have hecho0 : countEcho true (acceptedBid k true g (refreshCycle k r (dropSlotEcho s))) =
      { acceptedBid k true g (refreshCycle k r (dropSlotEcho s)) with
        cyc := { (acceptedBid k true g (refreshCycle k r (dropSlotEcho s))).cyc with echoFault := 0 } } :=
    countEcho_passed hb
  rw [bidReportEntered_own hecho _ hc, enterBidReport_valid_own, haccepted, hecho0, compareProfile_of_match ?profile,
    checkDuplicate_of_not (by simp)]
  case profile => exact fun hl => absurd hl (not_listen_of_bids hb)
  rfl

/-- The own BID in a Damaged slot, entered, with blindness unless the station leaves by this bid (R37, R44). -/
def ownBidDamaged (k : Nat) (g : BidFrame) (passed : Bool) (s : State) : State :=
  { s with
    lif := { s.lif with echo := none },
    cyc := { s.cyc with
      state := if g.leaving then s.cyc.state else blinded s.cyc.state,
      bids := ⟨s.cyc.bids.records.set k ⟨.damaged, true, some passed, false⟩, true⟩ },
    mgt :=
      if g.leaving then (countEvent .damagedFrames s).mgt
      else blindedMgt s.cyc.state (countEvent .damagedFrames s).mgt }

theorem bidReportEntered_ownDamaged (hecho : s.lif.echo = some ⟨.bid g, seen, result⟩)
    (hc : classifySlot s.mgt.profile (.bidSlot k) (a + us 6 * k) (a + us 6 * k + us 6 - 500) (some (.bid g)) line =
      .damaged)
    {passed : Bool}
    (hpassed : echoPassed s.mgt.profile (.bidSlot k) (a + us 6 * k) (a + us 6 * k + us 6 - 500) (some (.bid g)) line =
      passed) :
    bidReportEntered k a line s =
      leaveAfterBid (some (.bid g)) (countEcho passed (ownBidDamaged k g passed s)) := by
  rw [bidReportEntered_own hecho _ hc, hpassed, enterBidReport_damaged_own, enterRecord_damaged rfl]
  congr 2
  unfold ownBidDamaged
  cases g.leaving with
  | true => rfl
  | false =>
    rw [if_neg (by simp), goBlind_of_damage rfl]
    rfl

theorem ownBidDamaged_bids {passed : Bool} : (ownBidDamaged k g passed s).cyc.state.bids = s.cyc.state.bids := by
  unfold ownBidDamaged
  cases g.leaving <;> simp

/-- What R37 and the counters of a Damaged slot leave of the own bid (R13, R37). -/
theorem ownBidDamaged_mgt {passed : Bool} :
    (ownBidDamaged k g passed s).mgt.profile = s.mgt.profile ∧
      (ownBidDamaged k g passed s).mgt.settings = s.mgt.settings ∧
      (ownBidDamaged k g passed s).mgt.counters.get .damagedFrames =
        saturatingSucc (s.mgt.counters.get .damagedFrames) ∧
      (ownBidDamaged k g passed s).mgt.counters.get .blindCycles =
        if g.leaving = false ∧ s.cyc.state = .inStep then saturatingSucc (s.mgt.counters.get .blindCycles)
        else s.mgt.counters.get .blindCycles := by
  unfold ownBidDamaged
  cases g.leaving with
  | true => exact ⟨rfl, rfl, rfl, rfl⟩
  | false =>
    refine ⟨blindedMgt_profile _ _, blindedMgt_settings _ _, blindedMgt_damagedFrames _ _, ?_⟩
    rw [show (if false = true then (countEvent .damagedFrames s).mgt
      else blindedMgt s.cyc.state (countEvent .damagedFrames s).mgt) =
        blindedMgt s.cyc.state (countEvent .damagedFrames s).mgt from rfl, blindedMgt_blindCycles]
    simp only [true_and]
    rfl

end

end Sys2Proof.Machine

open Sys2Proof Sys2Proof.Machine

/-- Settles O28. -/
theorem ownEchoResult : Obligations.OwnEchoResult := by
  intro k a line g seen result s hb hp ha hk h16 hlen hunheard hecho ends passed
  have hactive : s.cyc.state.inactive = false := StationState.inactive_of_bids hb
  have hrecord : k < s.cyc.bids.records.length := by omega
  refine ⟨fun r hc hacc hdamage => ?_, fun hc hfew => ?_, fun hc hfailed hthird => ?_⟩
  · have hentered := bidReportEntered_ownValid hb hecho hc hacc hdamage
    have hstatus : bidStatus s.mgt.profile g = .valid ⟨g.station, g.cycle, bidFlag g, g.digest, bidDemand g⟩ :=
      if_pos hacc
    have hbids : (ownBidHeard k g r s).cyc.state.bids = true := hb
    have hself : (ownBidHeard k g r s).cyc.bids.record k =
        ⟨.valid ⟨g.station, g.cycle, bidFlag g, g.digest, bidDemand g⟩, true, some true, false⟩ :=
      BidTable.record_set_self hrecord
    refine ⟨leaveAfterBid (some (.bid g)) (ownBidHeard k g r s), (exec_eq_next _ _).trans (congrArg _
      (nextState_bidSlot_active hactive hp ha hunheard hentered (leaveAfterBid_active hbids) ?_ ?_)), ?_⟩
    · simp [ownBidHeard, profileNoted, acceptedBid, refreshCycle, bidSlotTime, slotsTime, restartLineLost]
    · simp [ownBidHeard, profileNoted, acceptedBid, refreshCycle, restartLineLost]
    · simp only [leaveAfterBid_frame, leaveAfterBid_state hbids, hself, hstatus, true_and]
      exact ⟨rfl, rfl, hp, rfl, rfl, rfl, rfl, rfl, rfl, rfl, rfl, rfl, rfl⟩
  · have hentered := bidReportEntered_ownDamaged hecho hc rfl
    have hdamaged : (ownBidDamaged k g passed s).cyc.state.bids = true := ownBidDamaged_bids.trans hb
    rw [countEcho_settled hdamaged hfew] at hentered
    have hcounted : (echoCounted passed (ownBidDamaged k g passed s)).cyc.state.bids = true := hdamaged
    have hself : (ownBidDamaged k g passed s).cyc.bids.record k = ⟨.damaged, true, some passed, false⟩ :=
      BidTable.record_set_self hrecord
    obtain ⟨hprofile, hsettings, hframes, hblind⟩ := ownBidDamaged_mgt (k := k) (g := g) (passed := passed) (s := s)
    refine ⟨_, (exec_eq_next _ _).trans (congrArg _
      (nextState_bidSlot_active hactive hp ha hunheard hentered (leaveAfterBid_active hcounted) ?_ ?_)), ?_⟩
    · rw [← ha]
      simp [echoCounted, ownBidDamaged]
    · simp [echoCounted, hprofile]
    · rw [leaveAfterBid_state hcounted]
      simp only [leaveAfterBid_frame, echoCounted, hself, hprofile, hsettings, hframes, hblind, true_and]
      refine ⟨rfl, rfl, hp, ha, rfl, rfl, ?_, rfl, rfl, rfl, rfl⟩
      unfold ownBidDamaged blinded
      cases g.leaving <;> rfl
  · have hentered := bidReportEntered_ownDamaged hecho hc rfl
    rw [show echoPassed _ _ _ _ _ _ = false from hfailed] at hentered
    have hdamaged : (ownBidDamaged k g false s).cyc.state.bids = true := ownBidDamaged_bids.trans hb
    have hcause := enterHalted_cause (cause := .echoFault)
      (s := { ownBidDamaged k g false s with
        cyc := { (ownBidDamaged k g false s).cyc with echoFault := (ownBidDamaged k g false s).cyc.echoFault + 1 } })
      (not_halted_of_active (StationState.inactive_of_bids hdamaged))
    rw [← countEcho_failed_third hdamaged hthird] at hcause
    rw [leaveAfterBid_staying (.inr (by rw [hcause.1]; rfl))] at hentered
    refine ⟨_, (exec_eq_next _ _).trans (congrArg _
      (nextState_bidSlot_inactive hactive hp ha hunheard hentered (inactive_of_halted hcause.1))), hcause.1, hcause.2.1⟩

end

section
/-! SUPPORT. The report of a data slot and of the table block (R7, R10, R12, R16). -/

namespace Sys2Proof.Machine

/-- The span of a data slot without the Valid BIDs of an open phase, which belong to no data slot (R12). -/
def slotLine (isOpen : Bool) (p : Profile) (line : SpanLine) : SpanLine :=
  if isOpen then { line with heard := withoutBids p line.heard } else line

/-- The part of the cycle in which a span is judged, over the table block or over one slot (R7). -/
def spanPart (block : Bool) (i : Nat) : CyclePart := if block then .tableBlock else .dataSlot i

/-- The length of the span (R5, R7). -/
def spanLength (block : Bool) : Time := if block then us 64 else us 16

/-- The slot after the span. -/
def spanNext (block : Bool) (i : Nat) : Nat := if block then i + 4 else i + 1

/-- The class of the span (R9). -/
def spanClass (block isOpen : Bool) (i : Nat) (d : Time) (line : SpanLine) (s : State) : SlotClass :=
  classifySlot s.mgt.profile (spanPart block i) (d + us 16 * i) (d + us 16 * i + spanLength block - 500) (ownSlotFrame s)
    (slotLine isOpen s.mgt.profile line)

/-- The slot has passed, and the echo of an own frame with it (R10, R11). -/
def slotPassed (isOpen : Bool) (next : Nat) (s : State) : State := passDataSlot isOpen next (dropSlotEcho s)

section
variable {block isOpen : Bool} {i : Nat} {d : Time} {line : SpanLine} {s : State}

theorem dataSlotReport_silent
    (hb : overTableBlock i (d + us 16 * i) (slotLine isOpen s.mgt.profile line) s.cyc = block)
    (hc : spanClass block isOpen i d line s = .silent) :
    dataSlotReport isOpen i d line s = slotPassed isOpen (spanNext block i) s := by
  subst hb
  unfold dataSlotReport
  extract_lets own nominal inSlot covers spanEnd next part c passed
  rw [show c = .silent from hc]
  rfl

theorem dataSlotReport_damaged
    (hb : overTableBlock i (d + us 16 * i) (slotLine isOpen s.mgt.profile line) s.cyc = block)
    (hc : spanClass block isOpen i d line s = .damaged) :
    dataSlotReport isOpen i d line s = countEvent .damagedFrames (slotPassed isOpen (spanNext block i) s) := by
  subst hb
  unfold dataSlotReport
  extract_lets own nominal inSlot covers spanEnd next part c passed
  rw [show c = .damaged from hc]
  rfl

/-- A Valid frame fixes the end, and is handed on unless ALC reports its slot as one of the table block (R92, R94). -/
theorem dataSlotReport_valid {f : Frame} {r : Reception}
    (hb : overTableBlock i (d + us 16 * i) (slotLine isOpen s.mgt.profile line) s.cyc = block)
    (hc : spanClass block isOpen i d line s = .valid f r) :
    dataSlotReport isOpen i d line s =
      if block || !inTableBlock s.alc i then
        handDataFrame (d + us 16 * i + spanLength block - 500) f
          (fixEndSlotted i (spanNext block i) f r (slotPassed isOpen (spanNext block i) s))
      else fixEndSlotted i (spanNext block i) f r (slotPassed isOpen (spanNext block i) s) := by
  subst hb
  unfold dataSlotReport
  extract_lets own nominal inSlot covers spanEnd next part c passed
  rw [show c = .valid f r from hc]
  change (if (!covers && inTableBlock s.alc i) = true then fixEndSlotted i next f r passed
      else handDataFrame spanEnd f (fixEndSlotted i next f r passed)) =
    if (covers || !inTableBlock s.alc i) = true then handDataFrame spanEnd f (fixEndSlotted i next f r passed)
      else fixEndSlotted i next f r passed
  cases covers <;> cases inTableBlock s.alc i <;> rfl

theorem nextState_slotReport_data (hactive : s.cyc.state.inactive = false) (hd : s.cyc.dataStart = some d)
    (hp : s.cyc.position = if isOpen then .dataOpen i else .dataFixed (some i))
    (hend : isOpen = false → ∃ e, s.cyc.dataEnd = some e ∧ d + us 16 * i < e) :
    nextState (.slotReport line) s = dataSlotReport isOpen i d line s := by
  rw [nextState_slotReport]
  cases isOpen with
  | true =>
    simp only [slotReport, hactive, hp, hd]
    rfl
  | false =>
    obtain ⟨e, he, hlt⟩ := hend rfl
    have hbefore : slotBeforeEnd i s.cyc = true := (slotBeforeEnd_iff _ _).mpr ⟨d, e, hd, he, hlt⟩
    simp only [slotReport, hactive, hp, hd, hbefore, Bool.false_eq_true, if_false, if_true]

end

/-- A TABLE is Valid over the table block alone (R7). -/
theorem table_spanPart {p : Profile} {block : Bool} {i : Nat} {nominal spanEnd : Time} {own : Option Frame}
    {line : SpanLine} {g : TableFrame} {r : Reception}
    (h : classifySlot p (spanPart block i) nominal spanEnd own line = .valid (.table g) r) : block = true := by
  obtain ⟨-, hjudged, -, -⟩ := (classifySlot_eq_valid _ _ _ _ _ _ _ _).mp h
  obtain ⟨-, hkind, -⟩ := (judgeBits_eq_some _ _ _ _).mp hjudged
  cases block with
  | true => rfl
  | false => cases hkind

theorem takeSegment_own {t : Time} {g : SegmentFrame} {s : State} (h : g.src = ownNumber s) : takeSegment t g s = s :=
  if_pos h

theorem takeAbort_own {g : AbortFrame} {s : State} (h : g.src = ownNumber s) : takeAbort g s = s := if_pos h

theorem takeTable_inStep {g : TableFrame} {s : State} (h : s.cyc.state = .inStep) : takeTable g s = s := by
  unfold takeTable
  rw [if_neg (by simp [h, StationState.loads])]

/-- A frame of this station has no effect where it is handed on (R94, R118). -/
theorem ite_handed_of_own {handed : Bool} {src own : Station} {u v : State} (h : src = own → v = u) :
    (if handed then v else u) = if handed && src != own then v else u := by
  cases handed with
  | false => rfl
  | true =>
    by_cases hs : src = own
    · simp [hs, h hs]
    · simp [hs]

theorem overTableBlock_iff (i : Nat) (d : Time) (line : SpanLine) (c : Cyc) :
    overTableBlock i (d + us 16 * i) line c = true ↔
      i = 0 ∧ (c.layout = .placed ∨ c.layout = .unknown ∧
        ((∃ r ∈ line.heard, d - 500 ≤ r.start ∧ r.start ≤ d + 500 ∧ tableCodeRead r.bits = true) ∨
          ∃ r, line.carrierAtEnd = some r ∧ d - 500 ≤ r.start ∧ r.start ≤ d + 500 ∧ tableCodeRead r.bits = true)) := by
  unfold overTableBlock
  rw [Bool.and_eq_true, beq_iff_eq]
  refine and_congr_right ?_
  rintro rfl
  have hnominal : d + us 16 * ((0 : Nat) : Int) = d := by simp
  have hwindow (start : Time) (bits : List Bool) : tableInWindow d start bits = true ↔
      d - 500 ≤ start ∧ start ≤ d + 500 ∧ tableCodeRead bits = true := by
    simp only [tableInWindow, halfWindow, Bool.and_eq_true, and_assoc]
    exact and_congr decide_eq_true_iff (and_congr decide_eq_true_iff Iff.rfl)
  rw [hnominal]
  cases c.layout with
  | placed => simp
  | notPlaced => simp
  | unknown => simp [hwindow, Option.any_eq_true]

end Sys2Proof.Machine

open Sys2Proof Sys2Proof.Machine

/-- Settles O29: one argument over the block and over a slot, with the part, the length and the next slot of each. -/
theorem dataSlotReports : Obligations.DataSlotReports := by
  intro isOpen i d line s hactive hd hp hend p own inSlot tableCode block holds
  have hline : slotLine isOpen s.mgt.profile line = inSlot := by
    cases isOpen <;> rfl
  have hblock : overTableBlock i (d + us 16 * i) (slotLine isOpen s.mgt.profile line) s.cyc = true ↔ block := by
    rw [hline]
    exact overTableBlock_iff i d inSlot s.cyc
  have hholds (b : Bool) (hb : overTableBlock i (d + us 16 * i) (slotLine isOpen s.mgt.profile line) s.cyc = b) :
      holds (spanPart b i) (spanLength b) (spanNext b i) (b || !inTableBlock s.alc i) := by
    have hclass : spanClass b isOpen i d line s =
        classifySlot p (spanPart b i) (d + us 16 * i) (d + us 16 * i + spanLength b - 500) own inSlot := by
      rw [spanClass, hline]
      rfl
    have hreport := nextState_slotReport_data (line := line) hactive hd hp hend
    refine ⟨fun hc => ?_, fun hc => ?_, fun r g hc => ?_, fun r g hc => ?_, fun r g hc => ?_, fun r g hc => ?_⟩
    · rw [exec_eq_next, hreport, dataSlotReport_silent hb (hclass.trans hc)]
      rfl
    · rw [exec_eq_next, hreport, dataSlotReport_damaged hb (hclass.trans hc)]
      rfl
    · rw [exec_eq_next, hreport, dataSlotReport_valid hb (hclass.trans hc)]
      exact congrArg _ (ite_handed_of_own fun hown => takeSegment_own hown)
    · rw [exec_eq_next, hreport, dataSlotReport_valid hb (hclass.trans hc)]
      exact congrArg _ (ite_handed_of_own fun hown => takeAbort_own hown)
    · rw [exec_eq_next, hreport, dataSlotReport_valid hb (hclass.trans hc)]
      exact congrArg _ (ite_self _)
    · obtain rfl : b = true := table_spanPart hc
      rw [exec_eq_next, hreport, dataSlotReport_valid hb (hclass.trans hc)]
      refine congrArg _ ?_
      by_cases hs : s.cyc.state = .inStep
      · rw [if_pos hs]
        exact takeTable_inStep hs
      · rw [if_neg hs]
        rfl
  refine ⟨fun h => ?_, fun h => ?_⟩
  · have hi : i = 0 := h.1
    subst hi
    exact hholds true (hblock.mpr h)
  · exact hholds false (Bool.eq_false_iff.mpr (mt hblock.mp h))

end

section
/-! SUPPORT. Unslotted receptions (R12), save what a BID does. -/

namespace Sys2Proof.Machine

/-! ### Which reception is judged, and as what -/

theorem judgeBits_eq_none_of {p : Profile} {part : CyclePart} {bits : List Bool} {f : Frame}
    (hf : frameOfBits bits = some f) (hk : kindAllowed part f.kind = false) : judgeBits p part bits = none := by
  unfold judgeBits
  rw [hf]
  simp only [hk, Bool.false_and, Bool.false_eq_true, if_false]

/-- What is Valid while a position is held is Valid without one (R4, R7). -/
theorem judgeBits_unslotted_of_held {p : Profile} {bits : List Bool} {f : Frame}
    (h : judgeBits p .unslottedHeld bits = some f) : judgeBits p .unslotted bits = some f := by
  obtain ⟨hf, -, hfields⟩ := (judgeBits_eq_some _ _ _ _).mp h
  refine (judgeBits_eq_some _ _ _ _).mpr ⟨hf, rfl, ?_⟩
  cases f <;> exact hfields

theorem unslottedHere_of_started {f : Option Frame} {r : Reception} {c : Cyc}
    (h : ∃ u, c.unslottedUntil = some u ∧ r.start < u) : unslottedHere f r c = true := by
  unfold unslottedHere
  rw [(startedUnslotted_iff r c).mpr h, Bool.true_or]

theorem unslottedHere_of_unknown {f : Option Frame} {r : Reception} {c : Cyc} (h : c.position = .dataFixed none) :
    unslottedHere f r c = true := by
  simp only [unslottedHere, h, Bool.or_true]

theorem unslottedHere_of_boundaryDue {f : Option Frame} {r : Reception} {c : Cyc} (h : c.position = .gap)
    (hdue : c.boundaryDue = true) : unslottedHere f r c = true := by
  simp only [unslottedHere, h, hdue, Bool.or_true]

section
variable {r : Reception} {since : Time} {s : State}

theorem nextState_unslotted_off (h : s.lif.receiver = .off) : nextState (.unslottedReception r) s = s := by
  rw [nextState_unslottedReception]
  simp only [unslottedReception, h]

theorem nextState_unslotted_finishing (h : s.lif.receiver = .finishing) :
    nextState (.unslottedReception r) s = finishEcho (judgeBits s.mgt.profile .unslotted r.bits) s := by
  rw [nextState_unslottedReception]
  simp only [unslottedReception, h]

theorem heardWhole_of_since (hsince : s.lif.receiverSince = some since) (hr : since ≤ r.start) :
    heardWhole r s.lif = true := by
  simp only [heardWhole, hsince]
  exact decide_eq_true hr

theorem nextState_unslotted_startEcho {e : EchoWatch} (hon : s.lif.receiver = .on)
    (hsince : s.lif.receiverSince = some since) (hr : since ≤ r.start) (he : s.lif.startEcho = some e) :
    nextState (.unslottedReception r) s = judgeStartEcho e (judgeBits s.mgt.profile .unslotted r.bits) r s := by
  rw [nextState_unslottedReception]
  simp only [unslottedReception, hon, heardWhole_of_since hsince hr, he]
  rfl

theorem nextState_unslotted_noPosition (hon : s.lif.receiver = .on) (hsince : s.lif.receiverSince = some since)
    (hr : since ≤ r.start) (he : s.lif.startEcho = none) (hp : s.cyc.position = .none) :
    nextState (.unslottedReception r) s =
      takeReception (ownSlotFrame s) (judgeBits s.mgt.profile .unslotted r.bits) r (dropSlotEcho s) := by
  have hpart : unslottedPart s.cyc = .unslotted := if_pos hp
  have hhere : unslottedHere (judgeBits s.mgt.profile .unslotted r.bits) r s.cyc = true := by
    simp only [unslottedHere, hp, Bool.or_true]
  rw [nextState_unslottedReception]
  simp only [unslottedReception, hon, heardWhole_of_since hsince hr, he, hpart, hhere, hp]
  rfl

theorem nextState_unslotted_held (hon : s.lif.receiver = .on) (hsince : s.lif.receiverSince = some since)
    (hr : since ≤ r.start) (he : s.lif.startEcho = none) (hp : s.cyc.position ≠ .none)
    (hhere : unslottedHere (judgeBits s.mgt.profile .unslottedHeld r.bits) r s.cyc = true) :
    nextState (.unslottedReception r) s =
      takeReception none (judgeBits s.mgt.profile .unslottedHeld r.bits) r s := by
  have hpart : unslottedPart s.cyc = .unslottedHeld := if_neg hp
  rw [nextState_unslottedReception]
  simp only [unslottedReception, hon, heardWhole_of_since hsince hr, he, hpart, hhere, hp]
  rfl

end

/-! ### The echoes of a finishing receiver and of a START -/

/-- Counted in DamagedFrames where the reception is no Valid frame (R13). -/
def judgedMgt (f : Option Frame) (s : State) : Mgt := if f = none then (countEvent .damagedFrames s).mgt else s.mgt

theorem countJudged_eq (f : Option Frame) (s : State) :
    (if f.isNone then countEvent .damagedFrames s else s) = { s with mgt := judgedMgt f s } := by
  cases f <;> rfl

theorem finishEcho_done {f : Option Frame} {s : State} (htx : s.lif.tx = none) :
    finishEcho f s = { s with lif := ⟨.off, none, none, none, none, []⟩, mgt := judgedMgt f s } := by
  unfold finishEcho
  rw [countJudged_eq]
  simp only [htx, Option.isSome_none, Bool.false_eq_true, if_false, switchReceiverOff]

theorem finishEcho_sending {f : Option Frame} {e : EchoWatch} {s : State} (htx : s.lif.tx ≠ none)
    (he : s.lif.echo = some e) :
    finishEcho f s =
      { s with
        lif := { s.lif with echo := some { e with result := some (f == some e.frame) } }, mgt := judgedMgt f s } := by
  unfold finishEcho
  rw [countJudged_eq]
  simp only [Option.isSome_iff_ne_none.mpr htx, if_true, he]

section
variable {e : EchoWatch} {f : Option Frame} {r : Reception} {s : State}

theorem sendsStart_eq_false {l : Lif} (h : ∀ k c, l.tx ≠ some (.start k c)) : l.sendsStart = false := by
  unfold Lif.sendsStart
  split
  · rename_i k c htx
    exact absurd htx (h k c)
  · rfl

theorem judgeStartEcho_sending {st : Station} {check : Byte} (htx : s.lif.tx = some (.start st check)) :
    judgeStartEcho e f r s =
      { s with
        lif := { s.lif with startEcho := some { e with result := some (f == some e.frame) } }, mgt := judgedMgt f s } := by
  have hsends : s.lif.sendsStart = true := by simp only [Lif.sendsStart, htx]
  unfold judgeStartEcho
  rw [countJudged_eq]
  simp only [hsends, if_true]

theorem judgeStartEcho_passed (htx : ∀ k c, s.lif.tx ≠ some (.start k c)) (hlock : s.cyc.timingLock = true) :
    judgeStartEcho e (some e.frame) r s =
      { s with lif := { s.lif with startEcho := none }, cyc := { s.cyc with lineLost := .running r.stop } } := by
  unfold judgeStartEcho
  simp only [Option.isNone_some, Bool.false_eq_true, if_false, sendsStart_eq_false htx, beq_self_eq_true, if_true, hlock]
  rfl

theorem judgeStartEcho_failed (htx : ∀ k c, s.lif.tx ≠ some (.start k c)) (hf : f ≠ some e.frame) :
    judgeStartEcho e f r s =
      startEchoFailed r.stop { s with lif := { s.lif with startEcho := none }, mgt := judgedMgt f s } := by
  have hpassed : (f == some e.frame) = false := beq_eq_false_iff_ne.mpr hf
  unfold judgeStartEcho
  rw [countJudged_eq]
  simp only [sendsStart_eq_false htx, hpassed, Bool.false_eq_true, if_false]

end

/-! ### The end of the data phase (R16) -/

theorem fixEndUnslotted_unknown {f : Frame} {r : Reception} {s : State}
    (hp : s.cyc.position = .none ∨ s.cyc.position = .dataFixed none) :
    fixEndUnslotted f r s = fixUnknownSlots r.stop (endFromFrame f r) (restartLineLost r.stop s) := by
  rcases hp with hp | hp <;> simp only [fixEndUnslotted, restartLineLost, hp]

theorem fixEndUnslotted_other {f : Frame} {r : Reception} {s : State}
    (hp : s.cyc.position = .gap ∨ ∃ k, s.cyc.position = .announce k) :
    fixEndUnslotted f r s = restartLineLost r.stop s := by
  rcases hp with hp | ⟨k, hp⟩ <;> simp only [fixEndUnslotted, restartLineLost, hp]

theorem profileNoted_of_checked {s : State} (h : s.cyc.state = .listen → s.cyc.profileChecked = true) :
    profileNoted s = s := by
  have hkept : (decide (s.cyc.state = .listen) || s.cyc.profileChecked) = s.cyc.profileChecked := by
    by_cases hs : s.cyc.state = .listen
    · simp [h hs]
    · simp [hs]
  rw [profileNoted, hkept]

/-! ### A frame heard unslotted -/

section
variable {st : Station} {check : Byte} {s : State}

/-- The first comparison in LISTEN fails: the number is not looked at any more (R29). -/
theorem judgeNumber_mismatch (hs : s.cyc.state = .listen) (hp : s.cyc.profileChecked = false)
    (h : check ≠ s.mgt.profile.check) :
    checkDuplicate st false (compareProfile check s) = enterHalted .profileMismatch s := by
  have hactive : s.cyc.state.inactive = false := congrArg StationState.inactive hs
  rw [compareProfile_of_mismatch hs hp (by rw [ownCheck]; exact h),
    checkDuplicate_halted (enterHalted_cause (not_halted_of_active hactive)).1]

/-- The first comparison in LISTEN passes, and the number is looked at (R29, R30). -/
theorem judgeNumber_match (hs : s.cyc.state = .listen) (h : check = s.mgt.profile.check) :
    checkDuplicate st false (compareProfile check s) =
      if st = ownNumber s then enterHalted .duplicateNumber { s with cyc := { s.cyc with profileChecked := true } }
      else { s with cyc := { s.cyc with profileChecked := true } } := by
  have hhears : s.cyc.state.hearsDuplicates = true := congrArg StationState.hearsDuplicates hs
  have hnoted : profileNoted s = { s with cyc := { s.cyc with profileChecked := true } } := by
    rw [profileNoted, hs, decide_eq_true rfl, Bool.true_or]
  rw [compareProfile_of_match fun _ => .inr (by rw [ownCheck]; exact h)]
  split
  · rename_i hst
    rw [checkDuplicate_of_duplicate (s := profileNoted s) hst hhears, hnoted]
  · rename_i hst
    rw [checkDuplicate_of_not (s := profileNoted s) fun hd => hst hd.1, hnoted]

/-- No comparison is due: the number decides (R30). -/
theorem judgeNumber_checked (h : s.cyc.state = .listen → s.cyc.profileChecked = true) :
    checkDuplicate st false (compareProfile check s) = checkDuplicate st false s := by
  rw [compareProfile_of_match fun hs => .inl (h hs), profileNoted_of_checked h]

end

section
variable {f : Frame} {r : Reception} {since : Time} {s : State}

theorem nextState_unslotted_valid_held (hon : s.lif.receiver = .on) (hsince : s.lif.receiverSince = some since)
    (hr : since ≤ r.start) (he : s.lif.startEcho = none) (hp : s.cyc.position ≠ .none)
    (hhere : unslottedHere (some f) r s.cyc = true) (hjudged : judgeBits s.mgt.profile .unslottedHeld r.bits = some f) :
    nextState (.unslottedReception r) s = takeUnslotted false f r s := by
  rw [nextState_unslotted_held hon hsince hr he hp (hjudged ▸ hhere), hjudged]
  rfl

theorem nextState_unslotted_valid_noPosition (hon : s.lif.receiver = .on) (hsince : s.lif.receiverSince = some since)
    (hr : since ≤ r.start) (he : s.lif.startEcho = none) (hp : s.cyc.position = .none)
    (hjudged : judgeBits s.mgt.profile .unslotted r.bits = some f) :
    nextState (.unslottedReception r) s = takeUnslotted (ownSlotFrame s == some f) f r (dropSlotEcho s) := by
  rw [nextState_unslotted_noPosition hon hsince hr he hp, hjudged]
  rfl

/-- A START heard with no position held fixes a cycle; profile and number are looked at (R17, R29, R30). -/
theorem nextState_unslotted_start {st : Station} {check : Byte} (hon : s.lif.receiver = .on)
    (hsince : s.lif.receiverSince = some since) (hr : since ≤ r.start) (he : s.lif.startEcho = none)
    (hecho : s.lif.echo = none) (hp : s.cyc.position = .none)
    (hjudged : judgeBits s.mgt.profile .unslotted r.bits = some (.start st check)) :
    nextState (.unslottedReception r) s =
      checkDuplicate st false (compareProfile check (fixCycleByStart r.stop s)) := by
  rw [nextState_unslotted_valid_noPosition hon hsince hr he hp hjudged, ownSlotFrame_of_none hecho,
    dropSlotEcho_of_none hecho]
  rfl

/-- A data-phase frame with no slot to place it in, heard where its copy is not held (R12, R16). -/
theorem nextState_unslotted_data (hon : s.lif.receiver = .on) (hsince : s.lif.receiverSince = some since)
    (hr : since ≤ r.start) (he : s.lif.startEcho = none) (hecho : s.lif.echo = none)
    (hjudged : judgeBits s.mgt.profile .unslottedHeld r.bits = some f)
    (h : s.cyc.position = .none ∨ s.cyc.position ≠ .none ∧ unslottedHere (some f) r s.cyc = true) :
    nextState (.unslottedReception r) s = takeUnslotted false f r s := by
  rcases h with hp | ⟨hp, hhere⟩
  · rw [nextState_unslotted_valid_noPosition hon hsince hr he hp (judgeBits_unslotted_of_held hjudged),
      ownSlotFrame_of_none hecho, dropSlotEcho_of_none hecho]
    rfl
  · exact nextState_unslotted_valid_held hon hsince hr he hp hhere hjudged

/-- What an unslotted data-phase frame hands on, once the end is fixed (R12, R16). -/
theorem takeUnslotted_handed {u : Time → Byte → State}
    (h : ∀ count : Byte, f.remaining = some count.toNat → fixEndUnslotted f r s = u f.slotLength count) :
    (∀ g, f = .segment g → takeUnslotted false f r s = takeSegment r.stop g (u (us 16) g.remain)) ∧
    (∀ g, f = .abort g → takeUnslotted false f r s = takeAbort g (u (us 16) g.remain)) ∧
    (∀ g, f = .empty g → takeUnslotted false f r s = u (us 16) g.remain) ∧
    ∀ g, f = .table g → takeUnslotted false f r s = takeTable g (u (us 64) g.remain) := by
  refine ⟨?_, ?_, ?_, ?_⟩
  · rintro g rfl
    rw [takeUnslotted, h g.remain rfl]
    rfl
  · rintro g rfl
    rw [takeUnslotted, h g.remain rfl]
    rfl
  · rintro g rfl
    rw [takeUnslotted, h g.remain rfl]
    rfl
  · rintro g rfl
    rw [takeUnslotted, h g.remain rfl]
    rfl

end

end Sys2Proof.Machine

open Sys2Proof Sys2Proof.Machine

/-- Settles O31: the receiver's state and the copy that is held decide what a reception is. -/
theorem unslottedOthers : Obligations.UnslottedOthers := by
  refine ⟨?_, ?_, ?_, ?_, ?_, ?_, ?_, ?_⟩
  · intro r s hoff
    rw [exec_eq_next, nextState_unslotted_off hoff]
  · intro r s hfin judged mgt
    refine ⟨fun htx => ?_, fun e htx he => ?_⟩
    · rw [exec_eq_next, nextState_unslotted_finishing hfin, finishEcho_done htx]
      rfl
    · rw [exec_eq_next, nextState_unslotted_finishing hfin, finishEcho_sending htx he]
      rfl
  · intro r since s st check seen result hon hsince hr he htx u
    have hnext := nextState_unslotted_startEcho hon hsince hr he
    refine ⟨fun hjudged hlock => ?_, fun hjudged => ?_, fun f hjudged hf => ?_⟩
    · rw [exec_eq_next, hnext, hjudged]
      exact congrArg _ (judgeStartEcho_passed htx hlock)
    · rw [exec_eq_next, hnext, hjudged, judgeStartEcho_failed htx (by simp)]
      rfl
    · rw [exec_eq_next, hnext, hjudged, judgeStartEcho_failed htx (by simpa using hf)]
      rfl
  · intro r since s e st check hon hsince hr he htx judged
    rw [exec_eq_next, nextState_unslotted_startEcho hon hsince hr he, judgeStartEcho_sending htx]
    rfl
  · intro r since s hon hsince hr he hecho hp
    constructor
    · intro hjudged
      rw [exec_eq_next, nextState_unslotted_noPosition hon hsince hr he hp, ownSlotFrame_of_none hecho,
        dropSlotEcho_of_none hecho, hjudged]
      rfl
    intro st check hjudged u checked duplicate
    have hstart := nextState_unslotted_start hon hsince hr he hecho hp hjudged
    refine ⟨fun hlisten hunchecked hcheck => ?_, fun hlisten hunchecked hcheck => ?_, fun hchecked => ⟨fun hdup => ?_,
      fun hdup => ?_⟩⟩
    · rw [exec_eq_next, hstart, judgeNumber_mismatch (s := fixCycleByStart r.stop s) hlisten hunchecked hcheck]
      rfl
    · rw [exec_eq_next, hstart, judgeNumber_match (s := fixCycleByStart r.stop s) hlisten hcheck]
      rfl
    · rw [exec_eq_next, hstart, judgeNumber_checked (s := fixCycleByStart r.stop s) hchecked,
        checkDuplicate_of_duplicate (s := fixCycleByStart r.stop s) hdup.1 hdup.2]
      rfl
    · rw [exec_eq_next, hstart, judgeNumber_checked (s := fixCycleByStart r.stop s) hchecked,
        checkDuplicate_of_not (s := fixCycleByStart r.stop s) fun h => hdup ⟨h.1, h.2.2⟩]
      rfl
  · intro r since s hon hsince hr he hp hwhere hjudged
    have hhere : unslottedHere (judgeBits s.mgt.profile .unslottedHeld r.bits) r s.cyc = true := by
      rcases hwhere with h | ⟨h, hdue⟩ | h
      · exact unslottedHere_of_unknown h
      · exact unslottedHere_of_boundaryDue h hdue
      · exact unslottedHere_of_started h
    rw [exec_eq_next, nextState_unslotted_held hon hsince hr he hp hhere, hjudged]
    rfl
  · intro p bits st check hf
    exact judgeBits_eq_none_of hf rfl
  · intro r since f s hon hsince hr he hecho hjudged handed timed
    have hhanded (u : Time → Byte → State)
        (h : s.cyc.position = .none ∨ s.cyc.position ≠ .none ∧ unslottedHere (some f) r s.cyc = true)
        (hfix : ∀ count : Byte, f.remaining = some count.toNat → fixEndUnslotted f r s = u f.slotLength count) :
        handed u := by
      have hnext := nextState_unslotted_data hon hsince hr he hecho hjudged h
      obtain ⟨hsegment, habort, hempty, htable⟩ := takeUnslotted_handed hfix
      simp only [handed, exec_eq_next, hnext]
      exact ⟨fun g hg => congrArg _ (hsegment g hg), fun g hg => congrArg _ (habort g hg),
        fun g hg => congrArg _ (hempty g hg), fun g hg => congrArg _ (htable g hg)⟩
    refine ⟨fun hp => hhanded (fun length count =>
      fixUnknownSlots r.stop (some (r.start + length + us 16 * (count.toNat : Int))) (restartLineLost r.stop s)) ?_ ?_, fun hp hstarted => hhanded (fun _ _ => restartLineLost r.stop s) ?_ ?_⟩
    · rcases hp with hp | hp
      · exact .inl hp
      · exact .inr ⟨by simp [hp], unslottedHere_of_unknown hp⟩
    · intro count hcount
      rw [fixEndUnslotted_unknown hp, endFromFrame, hcount]
      rfl
    · refine .inr ⟨?_, unslottedHere_of_started hstarted⟩
      rcases hp with hp | ⟨k, hp⟩ <;> simp [hp]
    · intro _ _
      exact fixEndUnslotted_other hp

end

section
/-! SUPPORT. The cycle that an unslotted BID begins (R15, R25, R48): the boundary steps, the slots passed, and the
record of the BID. -/

namespace Sys2Proof.Machine

/-! ### The slots passed (R15) -/

/-- The records of the slots below `j`, in the announcement phase that starts at `a`. -/
def passedBids (a : Time) (l : Lif) (t : BidTable) : Nat → BidTable
  | 0 => t
  | i + 1 => (passedBids a l t i).enter i ⟨if slotWasSilent a i l then .silent else .damaged, false, none, true⟩

theorem enterPassedSlots_eq (a : Time) (s : State) (j : Nat) :
    enterPassedSlots a s j = { s with cyc := { s.cyc with bids := passedBids a s.lif s.cyc.bids j } } := by
  induction j with
  | zero => rfl
  | succ j ih =>
    rw [enterPassedSlots, ih]
    rfl

section
variable {a : Time} {l : Lif} {t : BidTable}

@[simp] theorem passedBids_length (j : Nat) : (passedBids a l t j).records.length = t.records.length := by
  induction j with
  | zero => rfl
  | succ j ih => simpa [passedBids, BidTable.enter] using ih

theorem passedBids_record_of_le {i j : Nat} (h : j ≤ i) : (passedBids a l t j).record i = t.record i := by
  induction j with
  | zero => rfl
  | succ j ih => rw [passedBids, BidTable.enter_record_of_ne (by omega), ih (by omega)]

theorem passedBids_record_of_lt {i j : Nat} (h : i < j) (hj : j ≤ t.records.length) :
    (passedBids a l t j).record i = ⟨if slotWasSilent a i l then .silent else .damaged, false, none, true⟩ := by
  induction j with
  | zero => omega
  | succ j ih =>
    rw [passedBids]
    by_cases hij : i = j
    · subst hij
      exact BidTable.enter_record_self (by rw [passedBids_length]; omega)
    · rw [BidTable.enter_record_of_ne hij, ih (by omega) (by omega)]

theorem passedBids_damage (j : Nat) :
    (passedBids a l t j).damage = true ↔ t.damage = true ∨ ∃ i, i < j ∧ slotWasSilent a i l = false := by
  induction j with
  | zero => simp [passedBids]
  | succ j ih =>
    have hlast : (if slotWasSilent a j l then BidStatus.silent else .damaged) = .damaged ↔
        slotWasSilent a j l = false := by
      cases slotWasSilent a j l <;> simp
    rw [passedBids, BidTable.enter, Bool.or_eq_true, ih, beq_iff_eq, hlast, or_assoc]
    refine or_congr_right ⟨?_, ?_⟩
    · rintro (⟨i, hi, hs⟩ | hs)
      · exact ⟨i, by omega, hs⟩
      · exact ⟨j, by omega, hs⟩
    · rintro ⟨i, hi, hs⟩
      by_cases hij : i = j
      · exact .inr (hij ▸ hs)
      · exact .inl ⟨i, by omega, hs⟩

end

theorem slotWasSilent_eq {a : Time} {i : Nat} {l : Lif} {since : Time} (h : l.receiverSince = some since) :
    slotWasSilent a i l =
      (decide (since ≤ a + us 6 * i - 500) &&
        l.carriers.all (fun c => decide (c.2 ≤ a + us 6 * i - 500) || decide (a + us 6 * i - 500 + us 6 ≤ c.1))) := by
  simp only [slotWasSilent, h]
  rfl

/-! ### Boundary steps (R34, R35, R38, R41, R44) -/

section
variable {t : Time} {s : State}

theorem boundaryStep_idle (h : s.cyc.state = .listen ∨ s.cyc.state = .starting ∨ s.cyc.state = .inStep) :
    boundaryStep t s = s := by
  rcases h with h | h | h <;> simp only [boundaryStep, h]

theorem boundaryStep_leaving (h : s.cyc.state = .leaving) : boundaryStep t s = enterStopped s := by
  simp only [boundaryStep, h]

theorem boundaryStep_blind (h : s.cyc.state = .blind) (hl : s.cyc.pendingLoad = none) :
    boundaryStep t s =
      { enterState .outOfStep s with cyc := { (enterState .outOfStep s).cyc with outOfStep := 0 } } := by
  simp only [boundaryStep, h, hl]

theorem boundaryStep_member (h : s.cyc.state = .joining ∨ s.cyc.state = .blind ∨ s.cyc.state = .outOfStep)
    (hl : s.cyc.pendingLoad = some .member) : boundaryStep t s = boundaryStep.settleMember s := by
  rcases h with h | h | h <;> simp only [boundaryStep, h, hl]

theorem boundaryStep_notMember (h : s.cyc.state = .blind ∨ s.cyc.state = .outOfStep)
    (hl : s.cyc.pendingLoad = some .notMember) : boundaryStep t s = boundaryStep.settleNotMember s := by
  rcases h with h | h <;> simp only [boundaryStep, h, hl]

theorem boundaryStep_joining (h : s.cyc.state = .joining) (hl : s.cyc.pendingLoad ≠ some .member) :
    boundaryStep t s = boundaryStep.joinCycleEnds t { s with cyc := { s.cyc with pendingLoad := none } } := by
  cases hp : s.cyc.pendingLoad with
  | none =>
    have hkept : { s with cyc := { s.cyc with pendingLoad := none } } = s := by rw [← hp]
    rw [hkept]
    simp only [boundaryStep, h, hp]
  | some o =>
    cases o with
    | member => exact absurd hp hl
    | notMember => simp only [boundaryStep, h, hp]

theorem joinCycleEnds_more (h : s.cyc.joinCycle + 1 < 8) :
    boundaryStep.joinCycleEnds t s = { s with cyc := { s.cyc with joinCycle := s.cyc.joinCycle + 1 } } :=
  if_neg (by simp only; omega)

/-- Eight cycles in JOINING, and attempts left (R34). -/
theorem joinCycleEnds_again (h : s.cyc.joinCycle + 1 = 8) (ha : s.cyc.joinAttempt + 1 < 4) :
    boundaryStep.joinCycleEnds t s =
      enterListen t
        { s with cyc := { s.cyc with
            joinCycle := s.cyc.joinCycle + 1, joinAttempt := s.cyc.joinAttempt + 1 } } :=
  (if_pos (by simp only; omega)).trans (if_neg (by simp only; omega))

/-- Eight cycles in JOINING, and no attempt left (R34). -/
theorem joinCycleEnds_failed (h : s.cyc.joinCycle + 1 = 8) (ha : s.cyc.joinAttempt + 1 = 4) :
    boundaryStep.joinCycleEnds t s =
      enterHalted .joinFailed
        { s with cyc := { s.cyc with
            joinCycle := s.cyc.joinCycle + 1, joinAttempt := s.cyc.joinAttempt + 1 } } :=
  (if_pos (by simp only; omega)).trans (if_pos (by simp only; omega))

theorem boundaryStep_outOfStep (h : s.cyc.state = .outOfStep) (hl : s.cyc.pendingLoad = none)
    (hc : s.cyc.outOfStep + 1 < 16) :
    boundaryStep t s = { s with cyc := { s.cyc with outOfStep := s.cyc.outOfStep + 1 } } := by
  simp only [boundaryStep, h, hl]
  exact if_neg (by omega)

/-- Sixteen cycles out of step (R41). -/
theorem boundaryStep_stepLoss (h : s.cyc.state = .outOfStep) (hl : s.cyc.pendingLoad = none)
    (hc : s.cyc.outOfStep + 1 = 16) :
    boundaryStep t s = stepLoss t { s with cyc := { s.cyc with outOfStep := s.cyc.outOfStep + 1 } } := by
  simp only [boundaryStep, h, hl]
  exact if_pos (by omega)

end

end Sys2Proof.Machine
end

section
/-! SUPPORT. The cycle that an unslotted BID begins (R15, R25, R48): what the begin of the cycle, its boundary step, and
the report of the BID each leave. -/

namespace Sys2Proof.Machine

/-! ### The parts of `beginCycleByBid` -/

/-- The cycle that an unslotted BID begins, with what every boundary clears, before any step (R15, R25). -/
def cycleByBid (f : BidFrame) (r : Reception) (s : State) : State :=
  clearCycle (restartLineLost r.stop
    { s with cyc := { s.cyc with
        position := .announce f.station.val, cycleStart := some (r.start - us 6 * f.station.val - us 10),
        annStart := some (r.start - us 6 * f.station.val), dataStart := none, dataEnd := none, unslottedUntil := none,
        fixedAt := some r.stop } })

/-- The echo of an own BID passes (R39). -/
def echoTaken (own : Bool) (s : State) : State := if own then countEcho true s else s

/-- The slots passed and the BID are entered, and R37 and R39 act on them. -/
def bidSeen (own : Bool) (f : BidFrame) (r : Reception) (s : State) : State :=
  echoTaken own (goBlind (enterBid f.station.val own f
    (enterPassedSlots (r.start - us 6 * f.station.val) s f.station.val)))

/-- The report of the BID in full (R29, R30, R37, R39, R48). -/
def bidTaken (own : Bool) (f : BidFrame) (r : Reception) (s : State) : State :=
  checkDuplicate f.station own (compareProfile f.check (bidSeen own f r s))

section
variable {own : Bool} {f : BidFrame} {r : Reception} {s : State}

theorem beginCycleByBid_eq :
    beginCycleByBid own f r s =
      if (if isDuplicate f.station own s then cycleByBid f r s
          else boundaryStep r.stop (cycleByBid f r s)).cyc.state.inactive then
        (if isDuplicate f.station own s then cycleByBid f r s else boundaryStep r.stop (cycleByBid f r s))
      else bidTaken own f r
        (if isDuplicate f.station own s then cycleByBid f r s else boundaryStep r.stop (cycleByBid f r s)) := rfl

/-- A BID that halts the station by its number takes no boundary step (R30, notes/assumptions/31.md). -/
theorem beginCycleByBid_duplicate (hactive : s.cyc.state.inactive = false) (h : isDuplicate f.station own s = true) :
    beginCycleByBid own f r s = bidTaken own f r (cycleByBid f r s) := by
  have hkept : (cycleByBid f r s).cyc.state.inactive = false := hactive
  rw [beginCycleByBid_eq, if_pos h, hkept]
  rfl

theorem beginCycleByBid_stepped {u : State} (h : isDuplicate f.station own s = false)
    (hu : boundaryStep r.stop (cycleByBid f r s) = u) (hactive : u.cyc.state.inactive = false) :
    beginCycleByBid own f r s = bidTaken own f r u := by
  simp only [beginCycleByBid_eq, h, hu, hactive, Bool.false_eq_true, if_false]

/-- A boundary step that ends the session is all that is done (R48, notes/assumptions/37.md). -/
theorem beginCycleByBid_ended {u : State} (h : isDuplicate f.station own s = false)
    (hu : boundaryStep r.stop (cycleByBid f r s) = u) (hinactive : u.cyc.state.inactive = true) :
    beginCycleByBid own f r s = u := by
  simp only [beginCycleByBid_eq, h, hu, hinactive, Bool.false_eq_true, if_false, if_true]

/-! ### The report of the BID -/

theorem echoTaken_eq :
    echoTaken own s =
      { s with cyc := { s.cyc with echoFault := if own && s.cyc.state.bids then 0 else s.cyc.echoFault } } := by
  cases own with
  | false => rfl
  | true =>
    rw [echoTaken, if_pos rfl, Bool.true_and]
    by_cases hb : s.cyc.state.bids = true
    · rw [countEcho_passed hb, if_pos hb]
    · rw [if_neg hb]
      exact if_neg hb

/-- The bid table after the report. -/
def bidsSeen (own : Bool) (f : BidFrame) (r : Reception) (s : State) : BidTable :=
  (passedBids (r.start - us 6 * f.station.val) s.lif s.cyc.bids f.station.val).enter f.station.val
    ⟨bidStatus s.mgt.profile f, own, if own then some true else none, false⟩

/-- The bid has entered the table; one entered as Damaged is counted (R48). -/
theorem enterBid_passed_eq :
    enterBid f.station.val own f (enterPassedSlots (r.start - us 6 * f.station.val) s f.station.val) =
      { s with
        cyc := { s.cyc with bids := bidsSeen own f r s },
        mgt := if bidAccepted s.mgt.profile f then s.mgt else (countEvent .damagedFrames s).mgt } := by
  rw [enterPassedSlots_eq]
  unfold enterBid bidsSeen
  cases h : bidAccepted s.mgt.profile f with
  | true =>
    rw [if_pos rfl]
    rfl
  | false =>
    rw [if_neg (by simp)]
    rfl

theorem bidSeen_state :
    (bidSeen own f r s).cyc.state =
      if s.cyc.state = .inStep ∧ (bidsSeen own f r s).damage = true then .blind else s.cyc.state := by
  rw [bidSeen, echoTaken_eq, enterBid_passed_eq]
  by_cases hd : (bidsSeen own f r s).damage = true
  · rw [goBlind_of_damage hd]
    simp only [hd, and_true]
    rfl
  · rw [goBlind_of_undamaged fun _ => by simpa using hd]
    simp only [hd, Bool.false_eq_true, and_false, if_false]

theorem bidSeen_blindCycles :
    (bidSeen own f r s).mgt.counters.get .blindCycles =
      if s.cyc.state = .inStep ∧ (bidsSeen own f r s).damage = true then
        saturatingSucc (s.mgt.counters.get .blindCycles)
      else s.mgt.counters.get .blindCycles := by
  have hkept : (if bidAccepted s.mgt.profile f then s.mgt else (countEvent .damagedFrames s).mgt).counters.get
      .blindCycles = s.mgt.counters.get .blindCycles := by
    split <;> rfl
  rw [bidSeen, echoTaken_eq, enterBid_passed_eq]
  by_cases hd : (bidsSeen own f r s).damage = true
  · rw [goBlind_of_damage hd]
    simp only [hd, and_true, blindedMgt_blindCycles, hkept]
  · rw [goBlind_of_undamaged fun _ => by simpa using hd]
    simp only [hd, Bool.false_eq_true, and_false, if_false, hkept]

theorem bidSeen_damagedFrames :
    (bidSeen own f r s).mgt.counters.get .damagedFrames =
      if bidAccepted s.mgt.profile f then s.mgt.counters.get .damagedFrames
      else saturatingSucc (s.mgt.counters.get .damagedFrames) := by
  have hcounted : (if bidAccepted s.mgt.profile f then s.mgt else (countEvent .damagedFrames s).mgt).counters.get
      .damagedFrames = if bidAccepted s.mgt.profile f then s.mgt.counters.get .damagedFrames
      else saturatingSucc (s.mgt.counters.get .damagedFrames) := by
    split <;> rfl
  rw [bidSeen, echoTaken_eq, enterBid_passed_eq]
  by_cases hd : (bidsSeen own f r s).damage = true
  · rw [goBlind_of_damage hd]
    exact (blindedMgt_damagedFrames _ _).trans hcounted
  · rw [goBlind_of_undamaged fun _ => by simpa using hd]
    exact hcounted

theorem bidSeen_bids : (bidSeen own f r s).cyc.bids = bidsSeen own f r s := by
  rw [bidSeen, echoTaken_eq, enterBid_passed_eq]
  simp

/-- What neither a boundary step that keeps the session nor the report of a BID changes. -/
def quietPart (u : State) :=
  (u.cyc.position, u.cyc.timingLock, u.cyc.lineLost, u.cyc.annStart, u.cyc.cycleStart, u.cyc.dataStart, u.cyc.dataEnd,
    u.cyc.unslottedUntil, u.cyc.fixedAt, u.cyc.layout, u.alc.grants, u.ssu.tableOut, u.cyc.outcome, u.lif, u.txq,
    u.ras, u.dlv, u.trb, u.mgt.profile, u.mgt.settings)

theorem bidSeen_quiet : quietPart (bidSeen own f r s) = quietPart s := by
  rw [bidSeen, echoTaken_eq]
  simp [quietPart]

theorem bidSeen_sched :
    (bidSeen own f r s).ssu = s.ssu ∧ (bidSeen own f r s).cyc.profileChecked = s.cyc.profileChecked ∧
      (bidSeen own f r s).cyc.joinCycle = s.cyc.joinCycle ∧ (bidSeen own f r s).cyc.outOfStep = s.cyc.outOfStep := by
  rw [bidSeen, echoTaken_eq]
  simp

theorem bidSeen_listens : (bidSeen own f r s).cyc.state = .listen ↔ s.cyc.state = .listen := by
  rw [bidSeen_state]
  split
  · rename_i h
    simp [h.1]
  · exact Iff.rfl

theorem bidSeen_hears : (bidSeen own f r s).cyc.state.hearsDuplicates = s.cyc.state.hearsDuplicates := by
  rw [bidSeen_state]
  split
  · rename_i h
    rw [h.1]
    rfl
  · rfl

theorem bidSeen_profile : (bidSeen own f r s).mgt.profile = s.mgt.profile ∧
    (bidSeen own f r s).mgt.settings = s.mgt.settings := by
  rw [bidSeen, echoTaken_eq]
  simp

theorem bidSeen_inactive : (bidSeen own f r s).cyc.state.inactive = s.cyc.state.inactive := by
  rw [bidSeen_state]
  split
  · rename_i h
    rw [h.1]
    rfl
  · rfl

theorem bidSeen_ownNumber : ownNumber (bidSeen own f r s) = ownNumber s :=
  congrArg (fun l : LocalSettings => l.station.toFin) bidSeen_profile.2

theorem compareProfile_bidSeen
    (h : s.cyc.state = .listen → s.cyc.profileChecked = true ∨ f.check = s.mgt.profile.check) :
    compareProfile f.check (bidSeen own f r s) = profileNoted (bidSeen own f r s) := by
  refine compareProfile_of_match fun hl => ?_
  rw [ownCheck, bidSeen_profile.1, bidSeen_sched.2.1]
  exact h (bidSeen_listens.mp hl)

theorem bidTaken_heard
    (hmatch : s.cyc.state = .listen → s.cyc.profileChecked = true ∨ f.check = s.mgt.profile.check)
    (hother : ¬(f.station = ownNumber s ∧ own = false ∧ s.cyc.state.hearsDuplicates = true)) :
    bidTaken own f r s = profileNoted (bidSeen own f r s) := by
  rw [bidTaken, compareProfile_bidSeen hmatch]
  refine checkDuplicate_of_not (s := profileNoted (bidSeen own f r s)) ?_
  rintro ⟨hst, hown, hh⟩
  exact hother ⟨hst.trans bidSeen_ownNumber, hown, bidSeen_hears.symm.trans hh⟩

theorem bidTaken_mismatch (hs : s.cyc.state = .listen) (hp : s.cyc.profileChecked = false)
    (h : f.check ≠ s.mgt.profile.check) :
    (bidTaken own f r s).cyc.state = .halted ∧ (bidTaken own f r s).cyc.haltCause = .profileMismatch := by
  have hactive : (bidSeen own f r s).cyc.state.inactive = false :=
    bidSeen_inactive.trans (congrArg StationState.inactive hs)
  have hcause := enterHalted_cause (cause := .profileMismatch) (not_halted_of_active hactive)
  have hmismatch : f.check ≠ ownCheck (bidSeen own f r s) := by
    rw [ownCheck, bidSeen_profile.1]
    exact h
  rw [bidTaken, compareProfile_of_mismatch (bidSeen_listens.mpr hs) (bidSeen_sched.2.1.trans hp) hmismatch,
    checkDuplicate_halted hcause.1]
  exact ⟨hcause.1, hcause.2.1⟩

theorem bidTaken_duplicate
    (hmatch : s.cyc.state = .listen → s.cyc.profileChecked = true ∨ f.check = s.mgt.profile.check)
    (hst : f.station = ownNumber s) (hh : s.cyc.state.hearsDuplicates = true) :
    bidTaken false f r s = enterHalted .duplicateNumber (profileNoted (bidSeen false f r s)) := by
  rw [bidTaken, compareProfile_bidSeen hmatch]
  exact checkDuplicate_of_duplicate (s := profileNoted (bidSeen false f r s)) (hst.trans bidSeen_ownNumber.symm)
    (bidSeen_hears.trans hh)

end

end Sys2Proof.Machine
end

section
/-! SUPPORT. A session end takes no step loss (R42, R45), and the boundary steps an unslotted BID may take (R34, R35,
R38, R41). -/

namespace Sys2Proof.Machine

/-! ### StepLosses through a session end -/

/-- The count of step losses. -/
def stepLosses (s : State) : Half := s.mgt.counters.get .stepLosses

theorem countEvent_stepLosses {c : Counter} {s : State} (h : c ≠ .stepLosses) :
    stepLosses (countEvent c s) = stepLosses s := Counters.get_set_of_ne _ _ h.symm

theorem handOff_stepLosses (rec : DeliveredRecord) (s : State) : stepLosses (handOff rec s) = stepLosses s := by
  have hover (q : Class) : overflowCounter q ≠ .stepLosses := by
    match q with
    | 0 | 1 | 2 | 3 => simp [overflowCounter]
  unfold handOff
  split
  · unfold offerRecord
    split
    · simp [stepLosses]
    · rw [countEvent_stepLosses (hover _)]
      simp [stepLosses]
  · rw [countEvent_stepLosses (by simp)]
    simp [stepLosses]

theorem abortContext_stepLosses (w : AbortReason) (c : Context) (s : State) :
    stepLosses (abortContext w c s) = stepLosses s := by
  have hcounter : abortCounter w ≠ .stepLosses := by
    cases w <;> simp [abortCounter]
  unfold abortContext
  extract_lets table counted
  have hcounted : stepLosses counted = stepLosses s := countEvent_stepLosses hcounter
  split
  · rw [handOff_stepLosses, ← hcounted]
    simp [stepLosses]
  · rw [← hcounted]
    simp [stepLosses]

theorem abortContexts_stepLosses (w : AbortReason) (cs : List Context) (s : State) :
    stepLosses (abortContexts w cs s) = stepLosses s := by
  have each (l : List Context) (u : State) : stepLosses (l.foldl (fun s c => abortContext w c s) u) = stepLosses u := by
    induction l generalizing u with
    | nil => rfl
    | cons c l ih => rw [List.foldl_cons, ih, abortContext_stepLosses]
  exact each _ _

theorem txqSessionEnd_stepLosses (s : State) : stepLosses (txqSessionEnd s) = stepLosses s := by
  simp [stepLosses, txqSessionEnd, endQueue]

theorem endQueues_stepLosses (s : State) : stepLosses (endQueues s) = stepLosses s := by
  have hras (u : State) : stepLosses (rasSessionEnd u) = stepLosses u := abortContexts_stepLosses _ _ _
  unfold endQueues
  split
  · exact txqSessionEnd_stepLosses s
  · split
    · rw [hras, txqSessionEnd_stepLosses]
      rfl
    · rw [txqSessionEnd_stepLosses, hras]
      rfl

theorem enterHalted_stepLosses (cause : HaltCause) (s : State) : stepLosses (enterHalted cause s) = stepLosses s := by
  have hend (u : State) : stepLosses (endSession u) = stepLosses u := by
    rw [← endQueues_stepLosses u]
    simp [stepLosses, endSession]
  unfold enterHalted
  split
  · rfl
  · rw [hend]
    simp [stepLosses]

/-! ### The boundary steps that keep the session -/

/-- The boundary step leads to `y`, and not by an entry into LISTEN (R34, R35, R38, R41). -/
def StepsTo (c : Cyc) (y : StationState) : Prop :=
  (c.state = .listen ∧ y = .listen) ∨ (c.state = .starting ∧ y = .starting) ∨ (c.state = .inStep ∧ y = .inStep) ∨
    (c.state = .blind ∧ c.pendingLoad = none ∧ y = .outOfStep) ∨
    ((c.state = .joining ∨ c.state = .blind ∨ c.state = .outOfStep) ∧ c.pendingLoad = some .member ∧ y = .inStep) ∨
    ((c.state = .blind ∨ c.state = .outOfStep) ∧ c.pendingLoad = some .notMember ∧ y = .joining) ∨
    (c.state = .joining ∧ c.pendingLoad ≠ some .member ∧ c.joinCycle + 1 < 8 ∧ y = .joining) ∨
    (c.state = .outOfStep ∧ c.pendingLoad = none ∧ c.outOfStep + 1 < 16 ∧ y = .outOfStep)

/-- The boundary step is an entry into LISTEN (R34, R41). -/
def Relistens (c : Cyc) : Prop :=
  (c.state = .joining ∧ c.pendingLoad ≠ some .member ∧ c.joinCycle + 1 = 8 ∧ c.joinAttempt + 1 < 4) ∨
    (c.state = .outOfStep ∧ c.pendingLoad = none ∧ c.outOfStep + 1 = 16)

theorem StepsTo.active {c : Cyc} {y : StationState} (h : StepsTo c y) : y.inactive = false := by
  rcases h with ⟨-, rfl⟩ | ⟨-, rfl⟩ | ⟨-, rfl⟩ | ⟨-, -, rfl⟩ | ⟨-, -, rfl⟩ | ⟨-, -, rfl⟩ | ⟨-, -, -, rfl⟩ |
    ⟨-, -, -, rfl⟩ <;> rfl

/-- A station that hears duplicates after the step has heard them before it (R30). -/
theorem StepsTo.hears {c : Cyc} {y : StationState} (h : StepsTo c y) (hy : y.hearsDuplicates = true) :
    c.state.hearsDuplicates = true := by
  rcases h with ⟨hs, -⟩ | ⟨hs, rfl⟩ | ⟨hs, -⟩ | ⟨hs, -⟩ | ⟨hs | hs | hs, -⟩ | ⟨hs | hs, -⟩ | ⟨hs, -⟩ | ⟨hs, -⟩
  case inr.inl => cases hy
  all_goals rw [hs]; rfl

theorem Relistens.hears {c : Cyc} (h : Relistens c) : c.state.hearsDuplicates = true := by
  rcases h with ⟨hs, -⟩ | ⟨hs, -⟩ <;> rw [hs] <;> rfl

/-- What a step within the session keeps, beside `quietPart`. -/
structure StepKept (u v : State) : Prop where
  quiet : quietPart v = quietPart u
  bids : v.cyc.bids = u.cyc.bids
  counters : v.mgt.counters = u.mgt.counters
  ssu : v.ssu = u.ssu
  checked : v.cyc.profileChecked = u.cyc.profileChecked

theorem StepKept.refl (u : State) : StepKept u u := ⟨rfl, rfl, rfl, rfl, rfl⟩

theorem enterState_stepKept (st : StationState) (u : State) : StepKept u (enterState st u) := by
  constructor <;> simp [quietPart]

/-- The step to a state, with the counts that R34 and R41 keep. -/
theorem boundaryStep_stays {t : Time} {u : State} {y : StationState} (h : StepsTo u.cyc y) :
    (boundaryStep t u).cyc.state = y ∧ StepKept u (boundaryStep t u) ∧
      (u.cyc.state = .joining → y = .joining → (boundaryStep t u).cyc.joinCycle = u.cyc.joinCycle + 1) ∧
      (u.cyc.state = .outOfStep → y = .outOfStep → (boundaryStep t u).cyc.outOfStep = u.cyc.outOfStep + 1) := by
  rcases h with ⟨hs, rfl⟩ | ⟨hs, rfl⟩ | ⟨hs, rfl⟩ | ⟨hs, hl, rfl⟩ | ⟨hs, hl, rfl⟩ | ⟨hs, hl, rfl⟩ | ⟨hs, hl, hc, rfl⟩ |
    ⟨hs, hl, hc, rfl⟩
  · rw [boundaryStep_idle (.inl hs)]
    exact ⟨hs, .refl u, by simp, by simp⟩
  · rw [boundaryStep_idle (.inr (.inl hs))]
    exact ⟨hs, .refl u, by simp, by simp⟩
  · rw [boundaryStep_idle (.inr (.inr hs))]
    exact ⟨hs, .refl u, by simp, by simp⟩
  · rw [boundaryStep_blind hs hl]
    exact ⟨by simp, by constructor <;> simp [quietPart], by simp, by simp [hs]⟩
  · rw [boundaryStep_member hs hl]
    unfold boundaryStep.settleMember
    exact ⟨by simp, by constructor <;> simp [quietPart, enterInStep], by simp, by simp⟩
  · rw [boundaryStep_notMember hs hl]
    unfold boundaryStep.settleNotMember
    refine ⟨by simp, by constructor <;> simp [quietPart], fun hj => ?_, by simp⟩
    rcases hs with hs | hs <;> simp [hs] at hj
  · rw [boundaryStep_joining hs hl, joinCycleEnds_more (by exact hc)]
    exact ⟨hs, ⟨rfl, rfl, rfl, rfl, rfl⟩, fun _ _ => rfl, by simp⟩
  · rw [boundaryStep_outOfStep hs hl hc]
    exact ⟨hs, ⟨rfl, rfl, rfl, rfl, rfl⟩, by simp, fun _ _ => rfl⟩

/-- The step into LISTEN, from a state that holds what the cycle began with. -/
theorem boundaryStep_relistens {t : Time} {u : State} (h : Relistens u.cyc) :
    ∃ w, boundaryStep t u = enterListen t w ∧ w.cyc.leavePending = u.cyc.leavePending ∧ w.cyc.state ≠ .listen ∧
      quietPart w = quietPart u ∧ w.cyc.bids = u.cyc.bids ∧
      w.mgt.counters.get .damagedFrames = u.mgt.counters.get .damagedFrames := by
  rcases h with ⟨hs, hl, hc, ha⟩ | ⟨hs, hl, hc⟩
  · rw [boundaryStep_joining hs hl, joinCycleEnds_again (by exact hc) (by exact ha)]
    exact ⟨_, rfl, rfl, by simp [hs], rfl, rfl, rfl⟩
  · rw [boundaryStep_stepLoss hs hl hc]
    exact ⟨_, rfl, rfl, by simp [raiseEvent, hs], rfl, rfl, rfl⟩

/-- An entry into LISTEN with the receiver on keeps the cycle that has just begun. -/
theorem enterListen_begun {t : Time} {w : State} (hl : w.cyc.leavePending = false) (hs : w.cyc.state ≠ .listen)
    (hon : w.lif.receiver = .on) (hg : w.alc.grants = none) (ht : w.ssu.tableOut = none) (ho : w.cyc.outcome = none) :
    quietPart (enterListen t w) = quietPart w ∧ (enterListen t w).cyc.bids = w.cyc.bids ∧
      (enterListen t w).cyc.state = .listen ∧ (enterListen t w).cyc.profileChecked = false ∧
      (enterListen t w).ssu.sched = Sched.empty ∧ (enterListen t w).mgt.counters = w.mgt.counters := by
  rw [enterListen_eq hl hs]
  refine ⟨?_, rfl, rfl, rfl, rfl, rfl⟩
  simp only [quietPart, hg, ht, ho, hon]
  rw [← hon]

end Sys2Proof.Machine
end

section
/-! SUPPORT. The cycle begun by an unslotted BID, as its report leaves it (R15, R48). -/

namespace Sys2Proof.Machine

/-- With no position held, the copy of an own frame whose slot was lost is judged by the reception (R21). -/
def echoDropped (s : State) : State :=
  { s with lif := { s.lif with echo := if s.cyc.position = .none then none else s.lif.echo } }

/-- The reception is the echo of the own BID, whose slot was lost with the position (R12, R21). -/
def ownBidEcho (f : BidFrame) (s : State) : Bool :=
  decide (s.cyc.position = .none ∧ s.lif.echo.map (fun e => e.frame) = some (.bid f))

theorem nextState_unslotted_bid {r : Reception} {f : BidFrame} {since : Time} {s : State}
    (hon : s.lif.receiver = .on) (hsince : s.lif.receiverSince = some since) (hr : since ≤ r.start)
    (he : s.lif.startEcho = none)
    (hwhere : s.cyc.position = .none ∨ s.cyc.position = .dataFixed none ∨ (∃ i, s.cyc.position = .dataOpen i) ∨
      (s.cyc.position = .gap ∧ s.cyc.boundaryDue = true) ∨ ∃ u, s.cyc.unslottedUntil = some u ∧ r.start < u)
    (hjudged : judgeBits s.mgt.profile .unslottedHeld r.bits = some (.bid f)) :
    nextState (.unslottedReception r) s = beginCycleByBid (ownBidEcho f s) f r (echoDropped s) := by
  by_cases hp : s.cyc.position = .none
  · have hown : ownBidEcho f s = (ownSlotFrame s == some (.bid f)) := by
      simp only [ownBidEcho, hp, true_and]
      exact (beq_eq_decide _ _).symm
    have hdropped : echoDropped s = dropSlotEcho s := by
      rw [echoDropped, if_pos hp]
      rfl
    rw [nextState_unslotted_valid_noPosition hon hsince hr he hp (judgeBits_unslotted_of_held hjudged), hown, hdropped]
    rfl
  · have hown : ownBidEcho f s = false := by simp [ownBidEcho, hp]
    have hdropped : echoDropped s = s := by
      rw [echoDropped, if_neg hp]
    have hhere : unslottedHere (some (.bid f)) r s.cyc = true := by
      rcases hwhere with h | h | ⟨i, h⟩ | ⟨h, hdue⟩ | h
      · exact absurd h hp
      · exact unslottedHere_of_unknown h
      · simp only [unslottedHere, h, Bool.or_true]
      · exact unslottedHere_of_boundaryDue h hdue
      · exact unslottedHere_of_started h
    rw [nextState_unslotted_valid_held hon hsince hr he hp hhere hjudged, hown, hdropped]
    rfl

theorem bidStatus_eq_damaged_iff (p : Profile) (f : BidFrame) :
    bidStatus p f = .damaged ↔ bidAccepted p f = false := by
  unfold bidStatus
  cases bidAccepted p f <;> simp

@[simp] theorem BidTable.clear_record (k : Nat) : BidTable.clear.record k = BidRecord.clear := by
  rw [BidTable.record, BidTable.clear]
  rcases Nat.lt_or_ge k 16 with hk | hk
  · rw [List.getD_eq_getElem _ _ (by simpa using hk), List.getElem_replicate]
  · rw [List.getD_eq_default _ _ (by simpa using hk)]

/-- What the state in which the report of the BID is taken still holds of the cycle begun. -/
structure BegunFor (f : BidFrame) (r : Reception) (s u : State) : Prop where
  quiet : quietPart u = quietPart (cycleByBid f r s)
  bids : u.cyc.bids = BidTable.clear
  damaged : u.mgt.counters.get .damagedFrames = s.mgt.counters.get .damagedFrames

section
variable {own : Bool} {f : BidFrame} {r : Reception} {s u : State}

theorem BegunFor.lif (h : BegunFor f r s u) : u.lif = s.lif := by
  have hq := h.quiet
  simp only [quietPart, Prod.mk.injEq] at hq
  tauto

theorem BegunFor.profile (h : BegunFor f r s u) : u.mgt.profile = s.mgt.profile := by
  have hq := h.quiet
  simp only [quietPart, Prod.mk.injEq] at hq
  tauto

theorem BegunFor.settings (h : BegunFor f r s u) : u.mgt.settings = s.mgt.settings := by
  have hq := h.quiet
  simp only [quietPart, Prod.mk.injEq] at hq
  tauto

theorem BegunFor.ownNumber (h : BegunFor f r s u) : ownNumber u = Machine.ownNumber s :=
  congrArg (fun l : LocalSettings => l.station.toFin) h.settings

theorem BegunFor.cleared (h : BegunFor f r s u) :
    u.alc.grants = none ∧ u.ssu.tableOut = none ∧ u.cyc.outcome = none := by
  have hq := h.quiet
  simp only [quietPart, Prod.mk.injEq] at hq
  tauto

theorem BegunFor.cycleByBid : BegunFor f r s (cycleByBid f r s) := ⟨rfl, rfl, rfl⟩

theorem BegunFor.stepKept {v : State} (h : BegunFor f r s u) (hv : StepKept u v) : BegunFor f r s v :=
  ⟨hv.quiet.trans h.quiet, hv.bids.trans h.bids, by rw [hv.counters]; exact h.damaged⟩

/-- The damage mark after the report (R37, R47). -/
theorem BegunFor.damage (h : BegunFor f r s u) :
    (bidsSeen own f r u).damage = true ↔ ¬bidAccepted s.mgt.profile f = true ∨
      ∃ i, i < f.station.val ∧ slotWasSilent (r.start - us 6 * f.station.val) i s.lif = false := by
  rw [bidsSeen, BidTable.enter, Bool.or_eq_true, passedBids_damage, h.bids, h.lif, h.profile, beq_iff_eq,
    bidStatus_eq_damaged_iff, Bool.not_eq_true]
  have hclear : ¬BidTable.clear.damage = true := by simp [BidTable.clear]
  rw [or_iff_right hclear, or_comm]

/-- The records after the report: the BID's own, the slots passed, and those still to come (R15, R48). -/
theorem BegunFor.records (h : BegunFor f r s u) :
    (bidsSeen own f r u).record f.station.val =
        ⟨bidStatus s.mgt.profile f, own, if own then some true else none, false⟩ ∧
      (∀ i : Nat, i < f.station.val → (bidsSeen own f r u).record i =
        ⟨if slotWasSilent (r.start - us 6 * f.station.val) i s.lif then .silent else .damaged, false, none, true⟩) ∧
      ∀ i : Nat, f.station.val < i → (bidsSeen own f r u).record i = BidRecord.clear := by
  have hlength : BidTable.clear.records.length = 16 := rfl
  have hstation := f.station.isLt
  rw [bidsSeen, h.bids, h.lif, h.profile]
  refine ⟨?_, fun i hi => ?_, fun i hi => ?_⟩
  · exact BidTable.enter_record_self (by rw [passedBids_length]; omega)
  · rw [BidTable.enter_record_of_ne (by omega), passedBids_record_of_lt hi (by omega)]
  · rw [BidTable.enter_record_of_ne (by omega), passedBids_record_of_le (by omega), BidTable.clear_record]

/-- The cycle begun, once the report of the BID has been taken without a halt. -/
theorem BegunFor.reported (h : BegunFor f r s u) :
    let t := profileNoted (bidSeen own f r u)
    quietPart t = quietPart (Machine.cycleByBid f r s) ∧ t.cyc.bids = bidsSeen own f r u ∧
      t.mgt.counters.get .damagedFrames =
        if bidStatus s.mgt.profile f = .damaged then saturatingSucc (s.mgt.counters.get .damagedFrames)
        else s.mgt.counters.get .damagedFrames := by
  refine ⟨bidSeen_quiet.trans h.quiet, bidSeen_bids, ?_⟩
  have hcounted : (profileNoted (bidSeen own f r u)).mgt.counters.get .damagedFrames =
      if bidAccepted u.mgt.profile f then u.mgt.counters.get .damagedFrames
      else saturatingSucc (u.mgt.counters.get .damagedFrames) := bidSeen_damagedFrames
  rw [hcounted, h.profile, h.damaged]
  simp only [bidStatus_eq_damaged_iff]
  cases bidAccepted s.mgt.profile f <;> rfl

theorem blindedMgt_stepLosses (st : StationState) (m : Mgt) :
    (blindedMgt st m).counters.get .stepLosses = m.counters.get .stepLosses := by
  unfold blindedMgt
  split <;> rfl

/-- No count of step losses comes of the report (R15, R48). -/
theorem bidSeen_stepLosses : stepLosses (bidSeen own f r s) = stepLosses s := by
  have hkept : (if bidAccepted s.mgt.profile f then s.mgt else (countEvent .damagedFrames s).mgt).counters.get
      .stepLosses = stepLosses s := by
    split <;> rfl
  rw [bidSeen, echoTaken_eq, enterBid_passed_eq, ← hkept]
  by_cases hd : (bidsSeen own f r s).damage = true
  · rw [goBlind_of_damage hd]
    exact blindedMgt_stepLosses _ _
  · rw [goBlind_of_undamaged fun _ => by simpa using hd]
    rfl

end

end Sys2Proof.Machine
end

section
open Sys2Proof Sys2Proof.Machine

/-- Settles O30: the begin of the cycle, its boundary step, and the report of the BID. -/
theorem unslottedBid : Obligations.UnslottedBid := by
  intro r f since s hon hsince hr he hactive hwhere hjudged j a own accepted silent checks duplicate cycleBegun x
  have hnext : nextState (.unslottedReception r) s = beginCycleByBid own f r (echoDropped s) :=
    nextState_unslotted_bid hon hsince hr he hwhere hjudged
  have haccepted : bidAccepted s.mgt.profile f = true ↔ accepted := bidAccepted_eq_true_iff _ _
  have hsilent (i : Nat) : slotWasSilent a i (echoDropped s).lif = silent i := slotWasSilent_eq hsince
  have hduplicate : isDuplicate f.station own (echoDropped s) = true ↔ duplicate := isDuplicate_iff _ _ _
  have hbegun {u : State} (h : BegunFor f r (echoDropped s) u) : cycleBegun (profileNoted (bidSeen own f r u)) := by
    obtain ⟨hq, hb, hd⟩ := h.reported (own := own)
    obtain ⟨hself, hpassed, hcoming⟩ := h.records (own := own)
    simp only [quietPart, Prod.mk.injEq] at hq
    obtain ⟨hposition, hlock, hlost, hann, hcycle, hdata, hend, huntil, hfixed, hlayout, hgrants, htable, houtcome,
      hlif, htxq, hras, hdlv, htrb, -, -⟩ := hq
    refine ⟨hposition, hlock, hlost, hann, hcycle, hdata, hend, huntil, hfixed, hlayout, hgrants, htable, houtcome,
      hb ▸ hself, ?_, fun i hi => ?_, fun i hi => hb ▸ hcoming i hi, hd, hlif, htxq, hras, hdlv, htrb⟩
    · rw [bidStatus_eq_damaged_iff, ← haccepted, Bool.not_eq_true]
    · rw [hb, hpassed i hi, hsilent]
  have hcalm (h : ¬duplicate) : isDuplicate f.station own (echoDropped s) = false :=
    Bool.eq_false_iff.mpr (mt hduplicate.mp h)
  have hstepped {u : State} (hdup : ¬duplicate) (hu : boundaryStep r.stop (cycleByBid f r (echoDropped s)) = u)
      (hua : u.cyc.state.inactive = false) : exec (.unslottedReception r) s = .next (bidTaken own f r u) := by
    rw [exec_eq_next, hnext, beginCycleByBid_stepped (hcalm hdup) hu hua]
  have hended {u : State} (hdup : ¬duplicate) (hu : boundaryStep r.stop (cycleByBid f r (echoDropped s)) = u)
      (hui : u.cyc.state.inactive = true) : exec (.unslottedReception r) s = .next u := by
    rw [exec_eq_next, hnext, beginCycleByBid_ended (hcalm hdup) hu hui]
  refine ⟨?stays, ?relistens, ?fails, ?leaves, ?mismatch, ?duplicate⟩
  case stays =>
    intro y hdup hy
    have hsteps : StepsTo (cycleByBid f r (echoDropped s)).cyc y := by
      rcases hy with ⟨hs, -, hy⟩ | hy
      · exact .inl ⟨hs, hy⟩
      · exact .inr hy
    obtain ⟨hstate, hkept, hjoins, houts⟩ := boundaryStep_stays (t := r.stop) hsteps
    generalize hu : boundaryStep r.stop (cycleByBid f r (echoDropped s)) = u at hstate hkept hjoins houts
    have hbegins : BegunFor f r (echoDropped s) u := BegunFor.cycleByBid.stepKept hkept
    have hyactive : u.cyc.state.inactive = false := by
      rw [hstate]
      exact hsteps.active
    have hchecks (hyl : y = .listen) : checks := by
      rcases hy with ⟨-, hc, -⟩ | hy
      · exact hc
      · subst hyl
        simp at hy
    have hmatch : u.cyc.state = .listen → u.cyc.profileChecked = true ∨ f.check = u.mgt.profile.check := by
      rw [hstate, hkept.checked, hbegins.profile]
      exact hchecks
    have hother : ¬(f.station = ownNumber u ∧ own = false ∧ u.cyc.state.hearsDuplicates = true) := by
      rintro ⟨hst, hown, hh⟩
      exact hdup ⟨hst.trans hbegins.ownNumber, hown, hsteps.hears (hstate ▸ hh)⟩
    have hdamage : (bidsSeen own f r u).damage = true ↔ ¬accepted ∨ ∃ i, i < j ∧ silent i = false := by
      rw [hbegins.damage]
      exact or_congr (not_congr haccepted) (exists_congr fun i => and_congr_right fun _ => by rw [hsilent i])
    have htaken := hstepped hdup hu hyactive
    rw [bidTaken_heard hmatch hother] at htaken
    obtain ⟨hssu, -, hjoinCycle, houtOfStep⟩ := bidSeen_sched (own := own) (f := f) (r := r) (s := u)
    refine ⟨_, htaken, hbegun hbegins, fun hyl => ?_, fun hxj hyj => hjoinCycle.trans (hjoins hxj hyj),
      fun hxo hyo => houtOfStep.trans (houts hxo hyo), ?_, ?_, fun hyi hbad => ?_, fun hgood => ?_⟩
    · have hlistens : (bidSeen own f r u).cyc.state = .listen := bidSeen_listens.mpr (hstate.trans hyl)
      simp only [profileNoted, hlistens, decide_true, Bool.true_or]
    · have hsched : u.ssu.sched = (cycleByBid f r (echoDropped s)).ssu.sched := congrArg Ssu.sched hkept.ssu
      exact (congrArg Ssu.sched hssu).trans hsched
    · have hdigest : u.ssu.digest = (cycleByBid f r (echoDropped s)).ssu.digest := congrArg Ssu.digest hkept.ssu
      exact (congrArg Ssu.digest hssu).trans hdigest
    · have hblinds : u.cyc.state = .inStep ∧ (bidsSeen own f r u).damage = true :=
        ⟨hstate.trans hyi, hdamage.mpr hbad⟩
      refine ⟨bidSeen_state.trans (if_pos hblinds), bidSeen_blindCycles.trans ?_⟩
      rw [if_pos hblinds, hkept.counters]
      rfl
    · have hkeeps : ¬(u.cyc.state = .inStep ∧ (bidsSeen own f r u).damage = true) := by
        rw [hstate, hdamage]
        exact hgood
      refine ⟨bidSeen_state.trans ((if_neg hkeeps).trans hstate), bidSeen_blindCycles.trans ?_⟩
      rw [if_neg hkeeps, hkept.counters]
      rfl
  case relistens =>
    intro hdup hre
    obtain ⟨w, hw, hleave, hlisten, hq, hb, hd⟩ :=
      boundaryStep_relistens (t := r.stop) (u := cycleByBid f r (echoDropped s)) hre
    have hbegins : BegunFor f r (echoDropped s) w := ⟨hq, hb, hd⟩
    cases hl : s.cyc.leavePending with
    | true =>
      rw [enterListen_leaving (hleave.trans hl)] at hw
      exact ⟨_, hended hdup hw (by simp [StationState.inactive]), by simp, by simp, by simp⟩
    | false =>
      obtain ⟨hgrants, htable, houtcome⟩ := hbegins.cleared
      have hreceiver : w.lif.receiver = .on := by
        rw [hbegins.lif]
        exact hon
      obtain ⟨hquiet, hbids, hstate, hunchecked, hsched, hcounters⟩ :=
        enterListen_begun (t := r.stop) (hleave.trans hl) hlisten hreceiver hgrants htable houtcome
      generalize enterListen r.stop w = u at hw hquiet hbids hstate hunchecked hsched hcounters
      have hbegun' : BegunFor f r (echoDropped s) u :=
        ⟨hquiet.trans hq, hbids.trans hb, by rw [hcounters]; exact hd⟩
      have hactive' : u.cyc.state.inactive = false := congrArg StationState.inactive hstate
      have hprofile : u.mgt.profile = s.mgt.profile := hbegun'.profile
      refine ⟨_, hstepped hdup hw hactive', by simp, fun _ hcheck => ?_, fun _ hcheck => ?_⟩
      · have hother : ¬(f.station = ownNumber u ∧ own = false ∧ u.cyc.state.hearsDuplicates = true) := by
          rintro ⟨hst, hown, -⟩
          exact hdup ⟨hst.trans hbegun'.ownNumber, hown, Relistens.hears hre⟩
        have hlistens : (bidSeen own f r u).cyc.state = .listen := bidSeen_listens.mpr hstate
        rw [bidTaken_heard (fun _ => .inr (hprofile ▸ hcheck)) hother]
        refine ⟨hlistens, ?_, ?_, hbegun hbegun'⟩
        · simp only [profileNoted, hlistens, decide_true, Bool.true_or]
        · exact (congrArg Ssu.sched bidSeen_sched.1).trans hsched
      · exact bidTaken_mismatch hstate hunchecked (hprofile ▸ hcheck)
  case fails =>
    intro hdup hs hl hc ha
    have hfailed := boundaryStep_joining (t := r.stop) (s := cycleByBid f r (echoDropped s)) hs hl
    rw [joinCycleEnds_failed (by exact hc) (by exact ha)] at hfailed
    have hcause := enterHalted_cause (cause := .joinFailed)
      (s := { cycleByBid f r (echoDropped s) with
        cyc := { (cycleByBid f r (echoDropped s)).cyc with
          pendingLoad := none, joinCycle := s.cyc.joinCycle + 1, joinAttempt := s.cyc.joinAttempt + 1 } })
      (not_halted_of_active hactive)
    exact ⟨_, hended hdup hfailed (inactive_of_halted hcause.1), hcause.1, hcause.2.1⟩
  case leaves =>
    intro hdup hs
    have hstopped := boundaryStep_leaving (t := r.stop) (s := cycleByBid f r (echoDropped s)) hs
    exact ⟨_, hended hdup hstopped (by simp [StationState.inactive]), by simp⟩
  case mismatch =>
    intro hs hchecks
    obtain ⟨hunchecked, hcheck⟩ := not_or.mp hchecks
    have htaken : exec (.unslottedReception r) s = .next (bidTaken own f r (cycleByBid f r (echoDropped s))) := by
      by_cases hdup : duplicate
      · rw [exec_eq_next, hnext, beginCycleByBid_duplicate (s := echoDropped s) hactive (hduplicate.mpr hdup)]
      · exact hstepped hdup (boundaryStep_idle (.inl hs)) hactive
    exact ⟨_, htaken, bidTaken_mismatch hs (Bool.eq_false_iff.mpr hunchecked) hcheck⟩
  case duplicate =>
    intro hdup hmatch
    obtain ⟨hst, hown, hh⟩ := hdup
    have htaken : exec (.unslottedReception r) s = .next (bidTaken own f r (cycleByBid f r (echoDropped s))) := by
      rw [exec_eq_next, hnext, beginCycleByBid_duplicate (s := echoDropped s) hactive (hduplicate.mpr ⟨hst, hown, hh⟩)]
    have hseen : (profileNoted (bidSeen false f r (cycleByBid f r (echoDropped s)))).cyc.state.inactive = false :=
      bidSeen_inactive.trans hactive
    have hcause := enterHalted_cause (cause := .duplicateNumber) (not_halted_of_active hseen)
    rw [hown, bidTaken_duplicate (s := cycleByBid f r (echoDropped s)) hmatch hst hh] at htaken
    refine ⟨_, htaken, hcause.1, hcause.2.1, hcause.2.2, ?_⟩
    exact (enterHalted_stepLosses _ _).trans bidSeen_stepLosses

end

section
/-! SUPPORT. The bodies of the six frames field by field (11.1), and their carriers (R2). -/

namespace Sys2Proof.Machine

/-! ### Fields -/

theorem headStation_eq_iff (b : Byte) (k : Station) : headStation b = k ↔ (b.extractLsb' 4 4).toNat = k.val := Fin.ext_iff

theorem headClass_eq_iff (b : Byte) (c : Class) : headClass b = c ↔ (b.extractLsb' 2 2).toNat = c.val := Fin.ext_iff

theorem destOf_eq_station_iff (c : BitVec 2) (n : BitVec 4) (k : Station) :
    destOf c n = .station k ↔ c = 0 ∧ n.toNat = k.val := by
  revert c n k; decide +kernel

theorem destOf_eq_group_iff (c : BitVec 2) (n : BitVec 4) (q : Fin 8) :
    destOf c n = .group q ↔ c = 1 ∧ (n.setWidth 3).toNat = q.val := by
  revert c n q; decide +kernel

theorem destOf_eq_all_iff (c : BitVec 2) (n : BitVec 4) : destOf c n = .all ↔ c = 2 := by
  revert c n; decide +kernel

theorem destOf_eq_reserved_iff (c : BitVec 2) (n : BitVec 4) (k : Station) :
    destOf c n = .reserved k ↔ c = 3 ∧ n.toNat = k.val := by
  revert c n k; decide +kernel

theorem extractLsb'_zero_eq_setWidth {w n : Nat} (v : BitVec w) : v.extractLsb' 0 n = v.setWidth n := by
  apply BitVec.eq_of_toNat_eq
  simp

theorem extractLsb'_setWidth_three (b : Byte) : (b.extractLsb' 0 4).setWidth 3 = b.extractLsb' 0 3 := by
  apply BitVec.eq_of_toNat_eq
  simp only [BitVec.toNat_setWidth, BitVec.extractLsb'_toNat]
  omega

/-- The destination byte, field by field (11.1). -/
theorem destOf_byte_iff (b : Byte) (d : Destination) :
    destOf (b.extractLsb' 6 2) (b.extractLsb' 0 4) = d ↔
      match d with
      | .station k => b.extractLsb' 6 2 = 0 ∧ (b.extractLsb' 0 4).toNat = k.val
      | .group q => b.extractLsb' 6 2 = 1 ∧ (b.extractLsb' 0 3).toNat = q.val
      | .all => b.extractLsb' 6 2 = 2
      | .reserved k => b.extractLsb' 6 2 = 3 ∧ (b.extractLsb' 0 4).toNat = k.val := by
  cases d with
  | station k => exact destOf_eq_station_iff _ _ k
  | group q =>
    rw [destOf_eq_group_iff, extractLsb'_setWidth_three]
  | all => exact destOf_eq_all_iff _ _
  | reserved k => exact destOf_eq_reserved_iff _ _ k

/-! ### A body is read as a frame where each field stands in its place -/

section
variable {body : List Byte}

theorem decodeBody_start_iff (h : body.length = 2) (k : Station) (check : Byte) :
    decodeBody .start body = some (.start k check) ↔
      ((body.getD 0 0).extractLsb' 4 4).toNat = k.val ∧ body.getD 1 0 = check := by
  match body, h with
  | [b0, b1], _ =>
    simp only [decodeBody, Option.some.injEq, Frame.start.injEq, headStation_eq_iff]
    exact Iff.rfl

theorem decodeBody_bid_iff (h : body.length = 10) (g : BidFrame) :
    decodeBody .bid body = some (.bid g) ↔
      ((body.getD 0 0).extractLsb' 4 4).toNat = g.station.val ∧ (body.getD 0 0).getLsbD 2 = g.leaving ∧
        (body.getD 0 0).getLsbD 1 = g.resync ∧ (body.getD 0 0).getLsbD 0 = g.joining ∧
        halfOf (body.getD 1 0) (body.getD 2 0) = g.cycle ∧ body.getD 3 0 = g.check ∧
        halfOf (body.getD 4 0) (body.getD 5 0) = g.digest ∧ body.getD 6 0 = g.demand.c0 ∧
        body.getD 7 0 = g.demand.c1 ∧ body.getD 8 0 = g.demand.c2 ∧ body.getD 9 0 = g.demand.c3 := by
  obtain ⟨station, cycle, leaving, resync, joining, check, digest, ⟨d0, d1, d2, d3⟩⟩ := g
  match body, h with
  | [b0, b1, b2, b3, b4, b5, b6, b7, b8, b9], _ =>
    simp only [decodeBody, Option.some.injEq, Frame.bid.injEq, BidFrame.mk.injEq, Four.mk.injEq, headStation_eq_iff]
    constructor
    · rintro ⟨hst, hcycle, hl, hr, hj, hrest⟩
      exact ⟨hst, hl, hr, hj, hcycle, hrest⟩
    · rintro ⟨hst, hl, hr, hj, hcycle, hrest⟩
      exact ⟨hst, hcycle, hl, hr, hj, hrest⟩

theorem decodeBody_segment_iff (h : body.length = 40) (g : SegmentFrame) :
    decodeBody .segment body = some (.segment g) ↔
      ((body.getD 0 0).extractLsb' 4 4).toNat = g.src.val ∧ ((body.getD 0 0).extractLsb' 2 2).toNat = g.cls.val ∧
        (body.getD 0 0).getLsbD 1 = g.first ∧ (body.getD 0 0).getLsbD 0 = g.last ∧
        destOf ((body.getD 1 0).extractLsb' 6 2) ((body.getD 1 0).extractLsb' 0 4) = g.dest ∧
        body.getD 2 0 = g.seq ∧ body.getD 3 0 = g.tag ∧
        (halfOf (body.getD 4 0) (body.getD 5 0)).extractLsb' 0 11 = g.len ∧
        (body.getD 6 0).extractLsb' 0 5 = g.index ∧ body.getD 7 0 = g.remain ∧ body.drop 8 = g.payload := by
  obtain ⟨src, cls, first, last, dest, seq, tag, len, index, remain, payload⟩ := g
  match body, h with
  | b0 :: b1 :: b2 :: b3 :: b4 :: b5 :: b6 :: b7 :: rest, _ =>
    simp only [decodeBody, Option.some.injEq, Frame.segment.injEq, SegmentFrame.mk.injEq, headStation_eq_iff,
      headClass_eq_iff, extractLsb'_zero_eq_setWidth]
    exact Iff.rfl

theorem decodeBody_empty_iff (h : body.length = 2) (g : EmptyFrame) :
    decodeBody .empty body = some (.empty g) ↔
      ((body.getD 0 0).extractLsb' 4 4).toNat = g.src.val ∧ ((body.getD 0 0).extractLsb' 2 2).toNat = g.cls.val ∧
        body.getD 1 0 = g.remain := by
  obtain ⟨src, cls, remain⟩ := g
  match body, h with
  | [b0, b1], _ =>
    simp only [decodeBody, Option.some.injEq, Frame.empty.injEq, EmptyFrame.mk.injEq, headStation_eq_iff,
      headClass_eq_iff]
    exact Iff.rfl

theorem decodeBody_abort_iff (h : body.length = 3) (g : AbortFrame) :
    decodeBody .abort body = some (.abort g) ↔
      ((body.getD 0 0).extractLsb' 4 4).toNat = g.src.val ∧ ((body.getD 0 0).extractLsb' 2 2).toNat = g.cls.val ∧
        body.getD 1 0 = g.seq ∧ body.getD 2 0 = g.remain := by
  obtain ⟨src, cls, seq, remain⟩ := g
  match body, h with
  | [b0, b1, b2], _ =>
    simp only [decodeBody, Option.some.injEq, Frame.abort.injEq, AbortFrame.mk.injEq, headStation_eq_iff,
      headClass_eq_iff]
    exact Iff.rfl

theorem decodeBody_table_iff (h : body.length = 74) (g : TableFrame) :
    decodeBody .table body = some (.table g) ↔
      ((body.getD 0 0).extractLsb' 4 4).toNat = g.src.val ∧ body.getD 1 0 = g.check ∧
        (body.drop 2).take 69 = g.body ∧ halfOf (body.getD 71 0) (body.getD 72 0) = g.digest ∧
        body.getD 73 0 = g.remain := by
  obtain ⟨src, check, sched, digest, remain⟩ := g
  match body, h with
  | b0 :: b1 :: rest, _ =>
    simp only [decodeBody, Option.some.injEq, Frame.table.injEq, TableFrame.mk.injEq, headStation_eq_iff]
    exact Iff.rfl

end

/-- A body of `k`'s length is read as a frame of kind `k`. -/
theorem decodeBody_kind {k : FrameKind} {body : List Byte} {f : Frame} (h : decodeBody k body = some f) : f.kind = k := by
  unfold decodeBody at h
  split at h <;> cases h <;> rfl

/-! ### Carriers -/

/-- A code and a body carry a frame: the code and length of its kind, and its fields in the body (11.1). -/
def Carries (f : Frame) (code : Byte) (body : List Byte) : Prop :=
  code = f.kind.code ∧ body.length = f.kind.bodyLength ∧ decodeBody f.kind body = some f

/-- The bits of a carrier: preamble, delimiter, kind code, body and check (11.1, R22). -/
def wireBits (code : Byte) (body : List Byte) : List Bool :=
  (syncBytes ++ (code :: body) ++ [hiByte (crc16 (code :: body)), loByte (crc16 (code :: body))]).flatMap byteBits

theorem Frame.bits_eq_wireBits (f : Frame) : f.bits = wireBits f.kind.code f.body := rfl

/-- A carrier is read back, whatever stands in the bits without a field and with up to 8 bits behind it (R2). -/
theorem frameOfBits_wireBits {f : Frame} {code : Byte} {body : List Byte} {tail : List Bool} (h : Carries f code body)
    (ht : tail.length ≤ 8) : frameOfBits (wireBits code body ++ tail) = some f := by
  obtain ⟨rfl, hlength, hdecode⟩ := h
  generalize hcheck : [hiByte (crc16 (f.kind.code :: body)), loByte (crc16 (f.kind.code :: body))] = check
  have hbits : wireBits f.kind.code body ++ tail =
      syncBits ++ (byteBits f.kind.code ++ (body.flatMap byteBits ++ (check.flatMap byteBits ++ tail))) := by
    simp only [wireBits, hcheck, syncBits, List.flatMap_append, List.flatMap_cons, List.append_assoc]
  have hbody := takeBytes_flatMap body (check.flatMap byteBits ++ tail)
  have hlast : takeBytes 2 (check.flatMap byteBits ++ tail) = some (check, tail) := by
    rw [← hcheck]
    exact takeBytes_flatMap [_, _] tail
  rw [hlength] at hbody
  simp only [frameOfBits, hbits, afterDelimiter_syncBits, takeByte_byteBits, FrameKind.ofCode_code, hbody, hlast,
    hcheck, ht, decide_true, beq_self_eq_true, Bool.and_self, if_true, hdecode]

/-- Only such carriers are read as frames, behind some first bits (R2, conditions 1 to 4). -/
theorem carries_of_frameOfBits {bits : List Bool} {f : Frame} (h : frameOfBits bits = some f) :
    ∃ (pre tail : List Bool) (code : Byte) (body : List Byte),
      bits = pre ++ wireBits code body ++ tail ∧ tail.length ≤ 8 ∧ Carries f code body := by
  obtain ⟨pre, tail, k, body, hbits, ht, hlength, hdecode⟩ := frameOfBits_eq_some h
  obtain rfl := decodeBody_kind hdecode
  exact ⟨pre, tail, _, body, hbits, ht, rfl, hlength, hdecode⟩

theorem crc16_append_byte (bytes : List Byte) (b : Byte) :
    crc16 (bytes ++ [b]) = (byteBits b).foldl crcBit (crc16 bytes) := by
  simp [crc16, List.flatMap_append, List.foldl_append]

theorem crcBit_eq (crc : Half) (bit : Bool) :
    crcBit crc bit = (crc <<< 1) ^^^ (if crc.getLsbD 15 = bit then 0x0000 else 0x1021) := by
  unfold crcBit
  by_cases h : crc.getLsbD 15 = bit
  · rw [if_neg (by simpa using h), if_pos h]
    exact (BitVec.xor_zero).symm
  · rw [if_pos (bne_iff_ne.mpr h), if_neg h]
    rfl

/-! ### What LIF sends (R22) -/

theorem headByte_flags (st : Station) (leaving resync joining : Bool) :
    (headByte st (if leaving then 1 else 0) resync joining).getLsbD 2 = leaving ∧
      (headByte st (if leaving then 1 else 0) resync joining).getLsbD 3 = false := by
  revert st leaving resync joining; decide +kernel

/-- The body that is sent for a frame is read as it. -/
theorem carries_body {f : Frame} (hs : ∀ g, f = .segment g → g.payload.length = 32)
    (ht : ∀ g, f = .table g → g.body.length = 69) : Carries f f.kind.code f.body := by
  refine ⟨rfl, f.body_length hs ht, ?_⟩
  cases f with
  | start k check => simp [decodeBody, Frame.kind, Frame.body, (headByte_fields _ _ _ _).1]
  | bid g =>
    obtain ⟨hst, -, hresync, hjoining⟩ := headByte_fields g.station (if g.leaving then 1 else 0) g.resync g.joining
    have hleaving := (headByte_flags g.station g.leaving g.resync g.joining).1
    simp only [decodeBody, Frame.kind, Frame.body, bidBody, halfOf_hiByte_loByte, hst, hresync, hjoining, hleaving]
  | segment g =>
    obtain ⟨hst, hcls, hfirst, hlast⟩ := headByte_fields g.src g.cls g.first g.last
    have hlen : (g.len.setWidth 16).setWidth 11 = g.len := by simp
    have hindex : (g.index.setWidth 8).setWidth 5 = g.index := by simp
    simp only [decodeBody, Frame.kind, Frame.body, segmentBody, halfOf_hiByte_loByte, hst, hcls, hfirst, hlast,
      destOf_destByte, hlen, hindex]
  | empty g =>
    obtain ⟨hst, hcls, -, -⟩ := headByte_fields g.src g.cls false false
    simp only [decodeBody, Frame.kind, Frame.body, hst, hcls]
  | abort g =>
    obtain ⟨hst, hcls, -, -⟩ := headByte_fields g.src g.cls false false
    simp only [decodeBody, Frame.kind, Frame.body, hst, hcls]
  | table g =>
    have hst := (headByte_fields g.src 0 false false).1
    have hlength := ht g rfl
    have htake : (g.body ++ [hiByte g.digest, loByte g.digest, g.remain]).take 69 = g.body := by
      rw [← hlength, List.take_left']
      rfl
    have hget (n : Nat) : (g.body ++ [hiByte g.digest, loByte g.digest, g.remain]).getD (69 + n) 0 =
        [hiByte g.digest, loByte g.digest, g.remain].getD n 0 := by
      rw [List.getD_eq_getElem?_getD, List.getElem?_append_right (by omega), hlength, Nat.add_sub_cancel_left,
        ← List.getD_eq_getElem?_getD]
    have hhi : (g.body ++ [hiByte g.digest, loByte g.digest, g.remain]).getD 69 0 = hiByte g.digest := hget 0
    have hlo : (g.body ++ [hiByte g.digest, loByte g.digest, g.remain]).getD 70 0 = loByte g.digest := hget 1
    have hremain : (g.body ++ [hiByte g.digest, loByte g.digest, g.remain]).getD 71 0 = g.remain := hget 2
    simp only [decodeBody, Frame.kind, Frame.body, tableBody, hst, htake, hhi, hlo, hremain, halfOf_hiByte_loByte]

/-- The bits of a head byte below the station number are 0 where no field stands there (R175). -/
theorem headByte_zero (st : Station) (c : Class) :
    (headByte st 0 false false).extractLsb' 0 4 = 0 ∧ (headByte st c false false).extractLsb' 0 2 = 0 := by
  revert st c; decide +kernel

/-- The bits of a destination byte without a field are 0 (R175). -/
theorem destByte_zero (d : Destination) :
    (destByte d).extractLsb' 4 2 = 0 ∧
      match d with
      | .group _ => (destByte d).getLsbD 3 = false
      | .all => (destByte d).extractLsb' 0 4 = 0
      | _ => True := by
  cases d with
  | station k => revert k; decide +kernel
  | group q => revert q; decide +kernel
  | all => decide
  | reserved k => revert k; decide +kernel

theorem hiByte_len_zero (len : BitVec 11) : (hiByte (len.setWidth 16)).extractLsb' 3 5 = 0 := by
  apply BitVec.eq_of_toNat_eq
  have hlen := len.isLt
  change _ = 0
  simp only [hiByte, BitVec.extractLsb'_toNat, BitVec.toNat_setWidth, Nat.shiftRight_eq_div_pow]
  omega

theorem index_zero (index : BitVec 5) : (index.setWidth 8).extractLsb' 5 3 = 0 := by
  apply BitVec.eq_of_toNat_eq
  have hindex := index.isLt
  change _ = 0
  simp only [BitVec.extractLsb'_toNat, BitVec.toNat_setWidth, Nat.shiftRight_eq_div_pow]
  omega

end Sys2Proof.Machine

open Sys2Proof Sys2Proof.Machine

/-- Settles O54: a frame's layout says that code and body carry it. -/
theorem frameRoundTrip : Obligations.FrameRoundTrip := by
  unfold Obligations.FrameRoundTrip
  intro wire number layout othersZero
  have hlayout (f : Frame) (code : Byte) (body : List Byte) : layout f code body ↔ Carries f code body := by
    cases f with
    | start k check =>
      exact and_congr_right fun _ => and_congr_right fun h => (decodeBody_start_iff h k check).symm
    | bid g => exact and_congr_right fun _ => and_congr_right fun h => (decodeBody_bid_iff h g).symm
    | segment g =>
      refine and_congr_right fun _ => and_congr_right fun h => ?_
      refine Iff.trans ?_ (decodeBody_segment_iff h g).symm
      rw [destOf_byte_iff]
      rfl
    | empty g => exact and_congr_right fun _ => and_congr_right fun h => (decodeBody_empty_iff h g).symm
    | abort g => exact and_congr_right fun _ => and_congr_right fun h => (decodeBody_abort_iff h g).symm
    | table g => exact and_congr_right fun _ => and_congr_right fun h => (decodeBody_table_iff h g).symm
  have hzero (f : Frame) : othersZero f f.body := by
    cases f with
    | start k check => exact (headByte_zero k 0).1
    | bid g => exact (headByte_flags g.station g.leaving g.resync g.joining).2
    | segment g =>
      obtain ⟨src, cls, first, last, dest, seq, tag, len, index, remain, payload⟩ := g
      obtain ⟨hmiddle, hnumber⟩ := destByte_zero dest
      refine ⟨hmiddle, hiByte_len_zero len, index_zero index, ?_⟩
      cases dest <;> exact hnumber
    | empty g => exact (headByte_zero g.src g.cls).2
    | abort g => exact (headByte_zero g.src g.cls).2
    | table g => exact (headByte_zero g.src 0).1
  refine ⟨fun f hs ht => ?_, fun f code body tail hl htail => ?_, fun bits f h => ?_, rfl, fun bytes b => ?_⟩
  · have hcarries := carries_body hs ht
    have hread := frameOfBits_wireBits (tail := []) hcarries (by simp)
    rw [List.append_nil] at hread
    exact ⟨hread, f.kind.code, f.body, rfl, (hlayout _ _ _).mpr hcarries, hzero f⟩
  · exact frameOfBits_wireBits ((hlayout _ _ _).mp hl) htail
  · obtain ⟨pre, tail, code, body, hbits, htail, hcarries⟩ := carries_of_frameOfBits h
    exact ⟨pre, tail, code, body, hbits, htail, (hlayout _ _ _).mpr hcarries⟩
  · rw [crc16_append_byte]
    have hstep : crcBit = fun (c : Half) bit => (c <<< 1) ^^^ (if c.getLsbD 15 = bit then 0x0000 else 0x1021) :=
      funext fun c => funext fun bit => crcBit_eq c bit
    rw [hstep]
    rfl

end

section
/-! SUPPORT. SOFT RESET, LEAVE, and the registers after power-on (R24, R43, R163, R165, R169, 11.3). -/

namespace Sys2Proof.Machine

/-! ### SOFT RESET (R169) -/

/-- An emission, or a BREAK that waits, leaves a BREAK behind (R163). -/
theorem framerAfterReset_eq (f : Framer) :
    framerAfterReset f = if f = .idle then .idle else .breakPending := by
  cases f <;> rfl

theorem nextState_softReset_unpinned {s : State} (h : s.pins.resetPin = false) :
    nextState .softReset s = softResetCommand s := by
  rw [nextState_softReset, h]
  rfl

/-! ### LEAVE (R43) -/

section
variable {s : State}

theorem nextState_leave_unpinned (h : s.pins.resetPin = false) : nextState .leave s = leaveCommand (endRead s) := by
  rw [nextState_leave, h]
  rfl

theorem leaveCommand_bidding
    (h : s.cyc.state = .joining ∨ s.cyc.state = .inStep ∨ s.cyc.state = .blind ∨ s.cyc.state = .outOfStep) :
    leaveCommand s = { s with cyc := { s.cyc with leavePending := true } } := by
  rcases h with h | h | h | h <;> simp only [leaveCommand, h]

theorem leaveCommand_listening (h : s.cyc.state = .listen ∨ s.cyc.state = .starting) :
    leaveCommand s = enterStopped s := by
  rcases h with h | h <;> simp only [leaveCommand, h]

theorem leaveCommand_leaving (h : s.cyc.state = .leaving) : leaveCommand s = s := by
  simp only [leaveCommand, h]

end

/-! ### Registers without a counter (11.3) -/

/-- The counters stand from 0x40 on. -/
theorem counterOfAddr_eq_none {a : BitVec 7} (h : a.toNat ≤ 0x3F) : counterOfAddr a = none := by
  rw [counterOfAddr, List.find?_eq_none]
  intro c _ hc
  have haddr : counterAddr c = a := by simpa using hc
  have hlow : 0x40 ≤ (counterAddr c).toNat := by cases c <;> decide
  rw [haddr] at hlow
  omega

/-- The registers 0x20 to 0x3F hold the steering entries, two for each (11.3). -/
theorem readRegister_steering {s : State} {a : BitVec 7} (hlow : 0x20 ≤ a.toNat) (hhigh : a.toNat ≤ 0x3F) :
    readRegister s a =
      if a.toNat % 2 = 0 then steerA (steerEntry s.mgt.settings ((a.toNat - 0x20) / 2))
      else steerB (steerEntry s.mgt.settings ((a.toNat - 0x20) / 2)) := by
  obtain ⟨n, hn⟩ : ∃ n, a.toNat = n + 0x20 := ⟨a.toNat - 0x20, by omega⟩
  rw [readRegister, counterOfAddr_eq_none hhigh, hn]
  exact if_pos ⟨by omega, by omega⟩

theorem steerEntry_reset (e : Nat) : steerEntry LocalSettings.reset e = SteerEntry.reset := by
  simp only [steerEntry, LocalSettings.reset, List.getD_eq_getElem?_getD, List.getElem?_replicate]
  split <;> rfl

theorem readRegister_counter (s : State) (c : Counter) :
    readRegister s (counterAddr c) = s.mgt.counters.get c := by
  rw [readRegister, counterOfAddr_counterAddr]

end Sys2Proof.Machine

open Sys2Proof Sys2Proof.Machine

/-- Settles O6. -/
theorem softResetClearsRuntimeState : Obligations.SoftResetClearsRuntimeState := by
  intro s hpin
  have hstate : (s.cyc.state != .config) = !decide (s.cyc.state = .config) := by
    cases s.cyc.state <;> rfl
  rw [exec_eq_next, nextState_softReset_unpinned hpin, softResetCommand, framerAfterReset_eq, hstate]
  rfl

/-- Settles O9: what LEAVE does follows the station state, once the read in progress is over. -/
theorem leaveCommandEffects : Obligations.LeaveCommand := by
  intro s hpin
  rw [exec_eq_next, nextState_leave_unpinned hpin]
  refine ⟨fun h => ?_, fun h => ?_, fun h => ?_, fun h => ?_⟩
  · rw [leaveCommand_bidding (s := endRead s) h]
    rfl
  · rw [leaveCommand_listening (s := endRead s) h]
    rfl
  · rw [leaveCommand_leaving (s := endRead s) h]
    rfl
  · have hinactive : (endRead s).cyc.state.inactive = true := by
      rcases h with h | h | h <;> simp [h, StationState.inactive]
    rw [leaveCommand_inactive hinactive]
    rfl

/-- Settles O3: the blocks and the registers before 0x20 hold what `State.reset` writes; a steering register reads an
entry that is all 0, and a counter's register its counter. -/
theorem resetValues : Obligations.ResetValues := by
  unfold Obligations.ResetValues
  intro s
  refine ⟨by decide, ⟨rfl, rfl, rfl, rfl, rfl, digestLaw_reset, by decide⟩, by decide, fun a hlow hhigh => ?_,
    fun c => ?_⟩
  · rw [readRegister_steering hlow hhigh, show s.mgt.settings = LocalSettings.reset from rfl, steerEntry_reset]
    split <;> rfl
  · rw [readRegister_counter]
    cases c <;> rfl

end

section
/-! SUPPORT. CYCLE_BOUNDARY: the positions that lead to a gap span, and the boundary as a CYCLE_BOUNDARY takes it (R25,
R34, R35, R38, R41, R44, R47, R61, R78). -/

namespace Sys2Proof.Machine

/-! ### The positions that lead to a gap span (R14, R25) -/

theorem nextGap_of_due {c : Cyc} {start : Time}
    (h : (c.position = .gap ∧ c.boundaryDue = true ∧ c.cycleStart = some start) ∨
      (c.position = .dataFixed none ∧ c.dataEnd = some start) ∨
      ∃ i d, c.position = .dataFixed (some i) ∧ c.dataStart = some d ∧ c.dataEnd = some start ∧
        start ≤ d + us 16 * (i : Nat)) :
    nextGap c = some start := by
  rcases h with ⟨hp, hdue, hs⟩ | ⟨hp, he⟩ | ⟨i, d, hp, hd, he, hle⟩
  · simp only [nextGap, hp, hdue, hs, if_true]
  · simp only [nextGap, hp, he]
  · have hpassed : slotBeforeEnd i c = false := by
      rw [slotBeforeEnd_of_ends i c d start hd he]
      exact decide_eq_false (not_lt.mpr hle)
    simp only [nextGap, hp, hpassed, he, Bool.false_eq_true, if_false]

theorem nextGap_eq_none {c : Cyc}
    (h : c.position = .none ∨ (∃ k, c.position = .announce k) ∨ (∃ i, c.position = .dataOpen i) ∨
      (c.position = .gap ∧ c.boundaryDue = false) ∨
      ∃ i d e, c.position = .dataFixed (some i) ∧ c.dataStart = some d ∧ c.dataEnd = some e ∧
        d + us 16 * (i : Nat) < e) :
    nextGap c = none := by
  rcases h with hp | ⟨k, hp⟩ | ⟨i, hp⟩ | ⟨hp, hdue⟩ | ⟨i, d, e, hp, hd, he, hlt⟩
  · simp only [nextGap, hp]
  · simp only [nextGap, hp]
  · simp only [nextGap, hp]
  · simp only [nextGap, hp, hdue, Bool.false_eq_true, if_false]
  · have hleft : slotBeforeEnd i c = true := (slotBeforeEnd_iff i c).mpr ⟨d, e, hd, he, hlt⟩
    simp only [nextGap, hp, hleft, if_true]

/-! ### The gap span begun -/

/-- The gap span of the cycle that starts at `start`, with what every boundary clears, before any step (R25, R47, R61,
R78). -/
def gapBegun (start : Time) (s : State) : State :=
  { s with
    cyc := { s.cyc with
      position := .gap, boundaryDue := false, cycleStart := some start, annStart := some (start + us 10),
      dataStart := none, dataEnd := none, layout := .unknown, bids := BidTable.clear, outcome := none,
      eligibleLast := eligibleAndCommitted s.cyc.outcome },
    alc := ⟨none⟩, ssu := { s.ssu with tableOut := none } }

theorem beginGap_eq (start : Time) (s : State) :
    beginGap start s = boundaryStep (start - halfWindow) (gapBegun start s) := rfl

/-- A CYCLE_BOUNDARY at which a gap span begins takes the step of the station state (R25). -/
theorem exec_cycleBoundary_begins {start : Time} {s : State} (h : nextGap s.cyc = some start) :
    exec .cycleBoundary s = .next (boundaryStep (start - halfWindow) (gapBegun start s)) := by
  rw [exec_eq_next, nextState_cycleBoundary h, beginGap_eq]

/-! ### The steps that R35 settles -/

section
variable (s : State)

theorem settleMember_cyc :
    (boundaryStep.settleMember s).cyc.state = .inStep ∧ (boundaryStep.settleMember s).cyc.joinAttempt = 0 ∧
      (boundaryStep.settleMember s).cyc.joinCycle = 0 ∧ (boundaryStep.settleMember s).cyc.outOfStep = 0 ∧
      (boundaryStep.settleMember s).cyc.pendingLoad = none :=
  ⟨enterInStep_state s, rfl, rfl, rfl, rfl⟩

theorem settleNotMember_cyc :
    (boundaryStep.settleNotMember s).cyc.state = .joining ∧ (boundaryStep.settleNotMember s).cyc.joinCycle = 0 ∧
      (boundaryStep.settleNotMember s).cyc.joinAttempt = s.cyc.joinAttempt ∧
      (boundaryStep.settleNotMember s).cyc.pendingLoad = none :=
  ⟨enterState_state .joining s, rfl, by simp [boundaryStep.settleNotMember], rfl⟩

end

/-! ### The eighth boundary in JOINING (R34) -/

section
variable {t : Time} {u : State} (h : u.cyc.state = .joining) (hl : u.cyc.pendingLoad ≠ some .member)
  (hc : u.cyc.joinCycle + 1 = 8)
include h hl hc

theorem boundaryStep_joinsAgain (ha : u.cyc.joinAttempt + 1 < 4) (hstay : u.cyc.leavePending = false) :
    (boundaryStep t u).cyc.state = .listen ∧ (boundaryStep t u).cyc.joinAttempt = u.cyc.joinAttempt + 1 ∧
      (boundaryStep t u).cyc.joinCycle = 0 ∧ (boundaryStep t u).cyc.position = u.cyc.position ∧
      (boundaryStep t u).cyc.timingLock = u.cyc.timingLock ∧ (boundaryStep t u).ssu.sched = Sched.empty := by
  rw [boundaryStep_joining h hl, joinCycleEnds_again (by exact hc) (by exact ha),
    enterListen_eq (by exact hstay) (by simp [h])]
  exact ⟨rfl, rfl, rfl, rfl, rfl, rfl⟩

theorem boundaryStep_joinLeft (ha : u.cyc.joinAttempt + 1 < 4) (hleave : u.cyc.leavePending = true) :
    (boundaryStep t u).cyc.state = .stopped ∧ (boundaryStep t u).cyc.joinAttempt = u.cyc.joinAttempt + 1 ∧
      (boundaryStep t u).cyc.position = .none := by
  rw [boundaryStep_joining h hl, joinCycleEnds_again (by exact hc) (by exact ha),
    enterListen_leaving (by exact hleave)]
  exact ⟨enterStopped_state _, by simp, (enterStopped_over _).position⟩

theorem boundaryStep_joinFailed (ha : u.cyc.joinAttempt + 1 = 4) :
    (boundaryStep t u).cyc.state = .halted ∧ (boundaryStep t u).cyc.haltCause = .joinFailed := by
  rw [boundaryStep_joining h hl, joinCycleEnds_failed (by exact hc) (by exact ha)]
  exact (enterHalted_cause (by simp [h])).imp_right And.left

end

/-! ### Step loss (R41, R42) -/

theorem enterStopped_stepLosses (s : State) : stepLosses (enterStopped s) = stepLosses s := by
  have hqueues := endQueues_stepLosses (enterState .stopped s)
  simpa [stepLosses, enterStopped, endSession] using hqueues

/-- A step loss is raised and counted, and leads into LISTEN with the timing kept, or into STOPPED. -/
theorem stepLoss_leads {t : Time} {s : State} (hs : s.cyc.state ≠ .listen) :
    (stepLoss t s).cyc.state = (if s.cyc.leavePending then .stopped else .listen) ∧
      (stepLoss t s).mgt.events.stepLoss = true ∧ stepLosses (stepLoss t s) = saturatingSucc (stepLosses s) ∧
      (s.cyc.leavePending = false →
        (stepLoss t s).cyc.position = s.cyc.position ∧ (stepLoss t s).cyc.timingLock = s.cyc.timingLock) := by
  have hcounted : stepLosses (countEvent .stepLosses (raiseEvent .stepLoss s)) = saturatingSucc (stepLosses s) := by
    simp [stepLosses]
  rw [stepLoss, ← hcounted]
  cases hl : s.cyc.leavePending with
  | true =>
    rw [enterListen_leaving (by exact hl)]
    exact ⟨enterStopped_state _, (marksRise_opRel.of_enterStopped _).1 .stepLoss rfl, enterStopped_stepLosses _, nofun⟩
  | false =>
    rw [enterListen_eq (by exact hl) (by exact hs)]
    exact ⟨rfl, rfl, rfl, fun _ => ⟨rfl, rfl⟩⟩

end Sys2Proof.Machine

open Sys2Proof Sys2Proof.Machine

/-- Settles O33: the three settlements of a load outcome, taken in BLIND. -/
theorem blindBoundary : Obligations.BlindBoundary := by
  intro start s hgap hs
  have hblind : (gapBegun start s).cyc.state = .blind := hs
  refine ⟨_, exec_cycleBoundary_begins hgap, fun hl => ?_, fun hl => ?_, fun hl => ?_⟩
  · rw [boundaryStep_blind hblind hl]
    exact ⟨enterState_state _ _, rfl⟩
  · rw [boundaryStep_member (.inr (.inl hblind)) hl]
    exact (settleMember_cyc _).1
  · rw [boundaryStep_notMember (.inl hblind) hl]
    exact (settleNotMember_cyc _).1

/-- Settles O32: a CYCLE_BOUNDARY begins the gap span that the position leads to, and then takes the step of the station
state, which `gapBegun` keeps with its counts. -/
theorem cycleBoundary : Obligations.CycleBoundary := by
  refine ⟨⟨fun start s hdue hs => ?_, fun s h => ?_⟩, fun start s hgap => ?_⟩
  · rw [exec_cycleBoundary_begins (nextGap_of_due hdue), boundaryStep_idle (s := gapBegun start s) hs]
    rfl
  · rw [exec_eq_next, nextState_cycleBoundary_idle (nextGap_eq_none h)]
  · have hnext := exec_cycleBoundary_begins hgap
    refine ⟨fun hs hl => ⟨_, hnext, ?_⟩, fun hs hl => ⟨_, hnext, ?_⟩, fun hs hl hc => ⟨_, hnext, ?_⟩,
      fun hs hl hc ha hstay => ⟨_, hnext, boundaryStep_joinsAgain (u := gapBegun start s) hs hl hc ha hstay⟩,
      fun hs hl hc ha hleave => ⟨_, hnext, boundaryStep_joinLeft (u := gapBegun start s) hs hl hc ha hleave⟩,
      fun hs hl hc ha => ⟨_, hnext, boundaryStep_joinFailed (u := gapBegun start s) hs hl hc ha⟩,
      fun hs hl hc => ⟨_, hnext, ?_⟩, fun hs hl hc => ⟨_, hnext, ?_⟩, fun hs => ⟨_, hnext, ?_⟩⟩
    · rw [boundaryStep_member (s := gapBegun start s) (hs.imp_right .inr) hl]
      obtain ⟨hstate, hattempt, hcycle, hout, hload⟩ := settleMember_cyc (gapBegun start s)
      exact ⟨hstate, hattempt, hcycle, hout, hload, by simp [gapBegun], by simp [gapBegun]⟩
    · rw [boundaryStep_notMember (s := gapBegun start s) (.inr hs) hl]
      obtain ⟨hstate, hcycle, hattempt, hload⟩ := settleNotMember_cyc (gapBegun start s)
      exact ⟨hstate, hcycle, hattempt, hload, by simp [gapBegun]⟩
    · rw [boundaryStep_joining (s := gapBegun start s) hs hl, joinCycleEnds_more (by exact hc)]
      exact ⟨hs, rfl, rfl, rfl⟩
    · rw [boundaryStep_outOfStep (s := gapBegun start s) hs hl hc]
      exact ⟨hs, rfl⟩
    · rw [boundaryStep_stepLoss (s := gapBegun start s) hs hl hc]
      obtain ⟨hstate, hraised, hcounted, hkept⟩ := stepLoss_leads (t := start - halfWindow)
        (s := { gapBegun start s with cyc := { (gapBegun start s).cyc with outOfStep := s.cyc.outOfStep + 1 } })
        (by simp [gapBegun, hs])
      exact ⟨hstate, by simp [gapBegun], hraised, hcounted, hkept⟩
    · rw [boundaryStep_leaving (s := gapBegun start s) hs]
      exact enterStopped_state _

end

section
/-! SUPPORT. The end of the announcement phase (R31, R36, R40, R54, R60, R69): the commit written out, the contexts a
removal aborts, and the verdict. -/

namespace Sys2Proof.Machine

/-! ### The contexts of removed sources (R69, R130) -/

/-- What stays where the elements that `p` holds of are erased one by one, in some order. -/
theorem mem_foldl_erase_filter {α : Type} [BEq α] [LawfulBEq α] {as bs : List α} {p : α → Bool}
    (h : as.Perm (bs.filter p)) (a : α) : a ∈ as.foldl List.erase bs ↔ a ∈ bs ∧ p a = false := by
  rw [← List.diff_eq_foldl, h.diff_left, ← List.count_pos_iff, List.count_diff]
  cases hp : p a with
  | true => simp [List.count_filter, hp]
  | false => simp [List.count_eq_zero_of_not_mem (l := bs.filter p) (a := a) (by simp [hp]), List.count_pos_iff]

theorem mem_removedStations (before after : Sched) (st : Station) :
    st ∈ removedStations before after ↔ (before.row st).member = true ∧ (after.row st).member = false := by
  simp [removedStations, mem_stations]

/-- The contexts of the sources removed are aborted, and every other stays (R69, R130). -/
theorem mem_removeSources_contexts (removed : List Station) (s : State) (c : Context) :
    c ∈ (removeSources removed s).ras.contexts ↔ c ∈ s.ras.contexts ∧ c.src ∉ removed := by
  unfold removeSources abortContexts
  rw [abortEach_contexts, mem_foldl_erase_filter (pickOrder_perm _ _ _)]
  simp

/-! ### The commit (R60, R66, R70, R79, R90) -/

/-- ALC's accounts after its passes, for an outcome (R79 to R86). -/
def committedAccounts (o : Announcement) (s : State) : List Account :=
  settleAccounts s.mgt.profile o.placed (openAccounts o s.cyc.bids s.ssu.sched)

/-- The schedule state that the commit of an outcome forms (R66). -/
def schedCommitted (o : Announcement) (s : State) : Sched :=
  committedSched s.mgt.profile.limit s.cyc.bids (committedAccounts o s)
    (nextPointer (rotationOrder o.eligible s.ssu.sched.pointer) s.ssu.sched.pointer) s.ssu.sched

/-- The TABLE that stands composed after the commit: the table source has composed one (R70). -/
def tableCommitted (o : Announcement) (s : State) : Option TableFrame :=
  if o.placed = true ∧ o.source = some (ownNumber s) then
    some ⟨ownNumber s, s.mgt.profile.check, (schedCommitted o s).serialise, (schedCommitted o s).digest, 0⟩
  else s.ssu.tableOut

/-- The commit before its removal signals. -/
def commitFormed (o : Announcement) (s : State) : State :=
  { s with
    alc := ⟨some (grantListOf o.placed (committedAccounts o s))⟩,
    ssu := ⟨schedCommitted o s, (schedCommitted o s).digest, tableCommitted o s⟩ }

theorem commit_eq (o : Announcement) (s : State) :
    commit o s = removeSources (removedStations s.ssu.sched (schedCommitted o s)) (commitFormed o s) := by
  have hsource : (o.placed && o.source == some (ownNumber s)) = true ↔
      o.placed = true ∧ o.source = some (ownNumber s) := by
    simp
  unfold commit
  extract_lets p before accounts after formed ssu
  congr 1
  by_cases h : o.placed = true ∧ o.source = some (ownNumber s)
  · rw [commitFormed, tableCommitted, if_pos h]
    refine (if_pos (hsource.mpr h)).trans ?_
    simp only [ssu, formed, withSched, composeTable]
    rfl
  · rw [commitFormed, tableCommitted, if_neg h]
    exact (if_neg (mt hsource.mp h)).trans rfl

section
variable (o : Announcement) (s : State)

@[simp] theorem commit_grants :
    (commit o s).alc.grants = some (grantListOf o.placed (committedAccounts o s)) := by
  rw [commit_eq]
  simp [commitFormed]

@[simp] theorem commit_ssu :
    (commit o s).ssu = ⟨schedCommitted o s, (schedCommitted o s).digest, tableCommitted o s⟩ := by
  rw [commit_eq]
  simp [commitFormed]

/-- The contexts of the sources that the commit removes are gone, and every other stays (R69). -/
theorem mem_commit_contexts (c : Context) :
    c ∈ (commit o s).ras.contexts ↔
      c ∈ s.ras.contexts ∧
        ¬((s.ssu.sched.row c.src).member = true ∧ ((schedCommitted o s).row c.src).member = false) := by
  rw [commit_eq, mem_removeSources_contexts, mem_removedStations]
  rfl

end

/-! ### The verdict (R36, R40, R60) -/

/-- The state in which an eligible station commits: its outcome shows the commit (R61). -/
def outcomeCommitted (o : Announcement) (s : State) : State :=
  { s with cyc := { s.cyc with outcome := some { o with committed := true } } }

theorem verdict_of_eligible {o : Announcement} {s : State} (h : o.ownEligible = true) :
    verdict o s =
      if s.cyc.state = .outOfStep then
        { enterInStep (commit o (outcomeCommitted o s)) with
          cyc := { (enterInStep (commit o (outcomeCommitted o s))).cyc with outOfStep := 0 } }
      else commit o (outcomeCommitted o s) := by
  have hstate : (commit o (outcomeCommitted o s)).cyc.state = s.cyc.state := by simp [outcomeCommitted]
  rw [verdict, if_pos h, ← hstate]
  rfl

section
variable {o : Announcement} {s : State} (hs : s.cyc.state = .inStep ∨ s.cyc.state = .outOfStep)
include hs

/-- Without own eligibility the station is out of step, and nothing is committed. -/
theorem verdict_ineligible_parts (h : o.ownEligible = false) :
    (verdict o s).cyc.state = .outOfStep ∧
      (verdict o s).cyc.outOfStep = (if s.cyc.state = .inStep then 0 else s.cyc.outOfStep) ∧
      (verdict o s).cyc.outcome = some o ∧ (verdict o s).ssu = s.ssu ∧ (verdict o s).alc = s.alc ∧
      (verdict o s).ras = s.ras := by
  unfold verdict
  rw [h]
  rcases hs with hs | hs <;> simp [hs]

/-- With own eligibility the station commits and is in step, its counts cleared where it was not. -/
theorem verdict_eligible_parts (h : o.ownEligible = true) :
    (verdict o s).cyc.state = .inStep ∧
      (s.cyc.state = .outOfStep → (verdict o s).cyc.outOfStep = 0 ∧ (verdict o s).cyc.joinAttempt = 0) ∧
      (verdict o s).cyc.outcome = some { o with committed := true } ∧
      (verdict o s).ssu = (commit o (outcomeCommitted o s)).ssu ∧
      (verdict o s).alc = (commit o (outcomeCommitted o s)).alc ∧
      (verdict o s).ras = (commit o (outcomeCommitted o s)).ras := by
  rw [verdict_of_eligible h]
  rcases hs with hs | hs <;> simp [hs, enterInStep, outcomeCommitted]

end

/-! ### Who decides (R31, R54) -/

section
variable {t : Time} {s : State}

theorem endAnnouncement_undecided (hs : s.cyc.state ≠ .listen) (h : decides s = false) :
    endAnnouncement t s = fixDataPhase t s := by
  simp only [endAnnouncement, if_neg hs, h, Bool.false_eq_true, if_false]

theorem endAnnouncement_decided (h : decides s = true) :
    endAnnouncement t s = fixDataPhase t (verdict (announcement (ownNumber s) s.cyc.bids s.ssu.sched) s) := by
  have hs : s.cyc.state ≠ .listen := by
    rcases ((decides_iff s).mp h).1 with hs | hs <;> simp [hs]
  simp only [endAnnouncement, if_neg hs, h, if_true]

theorem enterJoining_of_listen (hs : s.cyc.state = .listen) :
    enterJoining s =
      { s with
        cyc := { s.cyc with state := .joining, listenTimer := .stopped, joinCycle := 0 },
        mgt := { s.mgt with
          events := { s.mgt.events with state := true }, arisen := { s.mgt.arisen with state := true } } } := by
  rw [enterJoining, enterState_of_ne (by simp [hs])]
  rfl

theorem endAnnouncement_listen (hs : s.cyc.state = .listen) :
    endAnnouncement t s = fixDataPhase t (if mayJoin s = true then enterJoining s else s) := by
  simp only [endAnnouncement, if_pos hs]

end

end Sys2Proof.Machine

open Sys2Proof Sys2Proof.Machine

/-- Settles O36: who decides, and the verdict of a station that does. -/
theorem endOfAnnouncement : Obligations.EndOfAnnouncement := by
  refine ⟨fun s => ?_, fun k a s hactive hp ha hk hunheard hecho => ?_, fun t s => endAnnouncement_undecided,
    fun t s hs => ?_, fun t s hdecides => ?_⟩
  · rw [decides_iff, allClassified_iff]
  · rw [exec_eq_next, nextState_bidSlot_active hactive hp ha hunheard (bidReportEntered_silent hecho) hactive ha rfl,
      afterBidSlot, if_neg (by omega)]
  · have hjoin : mayJoin s = true ↔
        s.cyc.timingLock = true ∧ s.cyc.profileChecked = true ∧
          (s.cyc.bids.record (ownNumber s).val).status = .silent ∧
          allClassified s.cyc.bids s.mgt.profile.lineSize = true := by
      rw [mayJoin_iff]
      tauto
    rw [endAnnouncement_listen hs, enterJoining_of_listen hs]
    simp only [hjoin]
  · intro o
    have hs := ((decides_iff s).mp hdecides).1
    rw [endAnnouncement_decided hdecides]
    refine ⟨fun hown => ⟨_, rfl, verdict_ineligible_parts hs hown⟩, fun hown => ⟨_, rfl, ?_⟩⟩
    obtain ⟨hstate, hcounts, houtcome, hssu, halc, hras⟩ := verdict_eligible_parts hs hown
    refine ⟨hstate, hcounts, houtcome, by simp, ?_⟩
    intro accounts order
    have hcontexts (c : Context) : c ∈ (verdict o s).ras.contexts ↔
        c ∈ s.ras.contexts ∧
          ¬((s.ssu.sched.row c.src).member = true ∧ ((schedCommitted o s).row c.src).member = false) := by
      rw [hras]
      exact mem_commit_contexts o (outcomeCommitted o s) c
    rw [hssu, halc, commit_ssu, commit_grants]
    dsimp only
    exact ⟨rfl, rfl, rfl, rfl, hcontexts⟩

end

section
/-! SUPPORT. The session ends of RAS and of TXQ (R116, R128, R129, R134): what they count, and what becomes of the class
queues and the ingress record. -/

namespace Sys2Proof.Machine

/-! ### Contexts aborted by removal (R128, R129, R134) -/

/-- The count of contexts aborted by removal. -/
def removalAborts (s : State) : Nat := (s.mgt.counters.get .rxRemovalAbort).toNat

theorem saturatingSucc_toNat (v : Half) : (saturatingSucc v).toNat = min 65535 (v.toNat + 1) := by
  have hv := v.isLt
  unfold saturatingSucc
  split
  · rename_i h
    rw [h]
    rfl
  · rename_i h
    have hne : v.toNat ≠ 65535 := fun hmax => h (BitVec.eq_of_toNat_eq hmax)
    have hsum : (v + 1).toNat = (v.toNat + 1) % 65536 := BitVec.toNat_add v 1
    omega

theorem countEvent_removalAborts {c : Counter} {s : State} (h : c ≠ .rxRemovalAbort) :
    removalAborts (countEvent c s) = removalAborts s :=
  congrArg BitVec.toNat (Counters.get_set_of_ne _ _ h.symm)

/-- A hand-off counts nothing but overflows and discards (R137, R139). -/
theorem handOff_removalAborts (r : DeliveredRecord) (s : State) : removalAborts (handOff r s) = removalAborts s := by
  have hover (q : Class) : overflowCounter q ≠ .rxRemovalAbort := by
    match q with
    | 0 | 1 | 2 | 3 => simp [overflowCounter]
  unfold handOff
  split
  · unfold offerRecord
    split
    · simp [removalAborts]
    · rw [countEvent_removalAborts (hover _)]
      simp [removalAborts]
  · rw [countEvent_removalAborts (by simp)]
    simp [removalAborts]

/-- A context aborted by removal, written out (R128, R129). -/
theorem abortContext_removal (c : Context) (s : State) :
    abortContext .removal c s =
      if s.mgt.settings.damaged then
        handOff ⟨c.src, c.cls, c.tag, c.seq, 32 * c.next, .removal, c.bufs.take c.next⟩
          (returnBuffers (c.bufs.length - c.next) (countEvent .rxRemovalAbort
            { s with ras := { s.ras with contexts := s.ras.contexts.erase c } }))
      else returnBuffers c.bufs.length (countEvent .rxRemovalAbort
        { s with ras := { s.ras with contexts := s.ras.contexts.erase c } }) := by
  rw [← List.length_drop]
  unfold abortContext
  extract_lets table counted
  have hcounted : counted.mgt.settings.damaged = s.mgt.settings.damaged := rfl
  cases hd : s.mgt.settings.damaged <;> simp only [truncatedStatus, hcounted, hd] <;> rfl

theorem abortContext_removalAborts (c : Context) (s : State) :
    removalAborts (abortContext .removal c s) = min 65535 (removalAborts s + 1) := by
  have hcounted (u : State) : removalAborts (countEvent .rxRemovalAbort u) = min 65535 (removalAborts u + 1) := by
    rw [removalAborts, countEvent_counters, Counters.get_set_self, saturatingSucc_toNat]
    rfl
  have hreturned (n : Nat) (u : State) : removalAborts (returnBuffers n u) = removalAborts u := rfl
  rw [abortContext_removal]
  split
  · rw [handOff_removalAborts, hreturned, hcounted]
    rfl
  · rw [hreturned, hcounted]
    rfl

theorem abortEach_removalAborts (cs : List Context) (s : State) :
    removalAborts (cs.foldl (fun u c => abortContext .removal c u) s) = min 65535 (removalAborts s + cs.length) := by
  have hbound : removalAborts s < 65536 := (s.mgt.counters.get .rxRemovalAbort).isLt
  induction cs generalizing s with
  | nil => simp only [List.foldl_nil, List.length_nil]; omega
  | cons c cs ih =>
    rw [List.foldl_cons, ih _ (BitVec.isLt _), abortContext_removalAborts, List.length_cons]
    omega

/-- RAS's session end: the contexts in some order, the free order of notes/assumptions/8.md. -/
theorem rasSessionEnd_eq (s : State) :
    ∃ (cs : List Context) (ix : Nat), cs.Perm s.ras.contexts ∧
      rasSessionEnd s = cs.foldl (fun u c => abortContext .removal c u) { s with freeIx := ix } :=
  ⟨_, _, pickOrder_perm _ _ _, rfl⟩

theorem rasSessionEnd_removalAborts (s : State) :
    removalAborts (rasSessionEnd s) = min 65535 (removalAborts s + s.ras.contexts.length) := by
  obtain ⟨cs, ix, hperm, hend⟩ := rasSessionEnd_eq s
  rw [hend, abortEach_removalAborts, hperm.length_eq]
  rfl

/-- With no context open RAS's session end does nothing. -/
theorem rasSessionEnd_of_empty {s : State} (h : s.ras.contexts = []) : rasSessionEnd s = s := by
  simp only [rasSessionEnd, abortContexts, h]
  rfl

/-! ### The class queues and the ingress record (R116) -/

/-- TXQ without class queue `cls`: its buffers are free, and the message that arrives for it is discarded. -/
def Txq.endQueue (cls : Class) (x : Txq) : Txq :=
  { x with
    free := x.free + ((x.queues.get cls).map (fun d => d.bufs.length)).sum,
    queues := x.queues.set cls [],
    ingress :=
      match (x.queues.get cls).find? (fun d => d.st == .arriving) with
      | some d => .discarding .notActive cls d.tag
      | none => x.ingress }

/-- The Flushed notices of a class queue, in queue order (R116). -/
def flushNotices (q : List Descriptor) : List Notice := q.filterMap Descriptor.flushNotice

theorem endQueue_eq (cls : Class) (s : State) :
    endQueue cls s =
      takeNotices (flushNotices (s.txq.queues.get cls)) { s with txq := s.txq.endQueue cls } := rfl

theorem takeNotices_txq (ns : List Notice) (x : Txq) (s : State) :
    takeNotices ns { s with txq := x } = { takeNotices ns s with txq := x } := by
  induction ns generalizing s with
  | nil => rfl
  | cons n ns ih => exact (congrArg (takeNotices ns) (takeNotice_txq n x s)).trans (ih (takeNotice n s))

theorem takeNotices_append (ms ns : List Notice) (s : State) :
    takeNotices (ms ++ ns) s = takeNotices ns (takeNotices ms s) := List.foldl_append

/-- TXQ after its session end in the four classes. -/
def Txq.endQueues (x : Txq) : Txq := (((x.endQueue 0).endQueue 1).endQueue 2).endQueue 3

/-- TXQ's session end: the queues are gone, and the notices come queue by queue (R116). -/
theorem txqSessionEnd_eq (s : State) :
    txqSessionEnd s =
      takeNotices
        (flushNotices s.txq.queues.c0 ++ flushNotices s.txq.queues.c1 ++ flushNotices s.txq.queues.c2 ++
          flushNotices s.txq.queues.c3)
        { s with txq := s.txq.endQueues } := by
  have hnext (cls : Class) (ns : List Notice) (x : Txq) :
      endQueue cls (takeNotices ns { s with txq := x }) =
        takeNotices (ns ++ flushNotices (x.queues.get cls)) { s with txq := x.endQueue cls } := by
    have htxq : (takeNotices ns { s with txq := x }).txq = x := by simp
    rw [endQueue_eq, htxq, takeNotices_append, takeNotices_txq ns x, takeNotices_txq ns (x.endQueue cls)]
  exact ((congrArg (endQueue 3) ((congrArg (endQueue 2) (hnext 1 _ _)).trans (hnext 2 _ _))).trans (hnext 3 _ _))

@[simp] theorem txqSessionEnd_txq (s : State) : (txqSessionEnd s).txq = s.txq.endQueues := by
  rw [txqSessionEnd_eq]
  simp

/-- A class queue with nothing Arriving leaves the ingress record. -/
theorem Txq.endQueue_ingress_of_noArriving {cls : Class} {x : Txq} (h : noArriving (x.queues.get cls)) :
    (x.endQueue cls).ingress = x.ingress := by
  have hfind : (x.queues.get cls).find? (fun d => d.st == .arriving) = none := by
    simpa [noArriving, List.find?_eq_none] using h
  simp only [Txq.endQueue, hfind]

/-- A message that arrives at the tail of its class queue is discarded. -/
theorem Txq.endQueue_ingress_of_arriving {cls : Class} {x : Txq} {d : Descriptor}
    (hlast : (x.queues.get cls).getLast? = some d) (hd : d.st = .arriving)
    (hrest : noArriving (x.queues.get cls).dropLast) :
    (x.endQueue cls).ingress = .discarding .notActive cls d.tag := by
  have hnone : (x.queues.get cls).dropLast.find? (fun d => d.st == .arriving) = none := by
    simpa [noArriving, List.find?_eq_none] using hrest
  have hfind : (x.queues.get cls).find? (fun d => d.st == .arriving) = some d := by
    rw [← List.dropLast_append_getLast? d hlast, List.find?_append, hnone]
    simp [hd]
  simp only [Txq.endQueue, hfind]

theorem Txq.endQueue_get_of_ne {cls c : Class} (x : Txq) (h : c ≠ cls) :
    (x.endQueue cls).queues.get c = x.queues.get c := Four.get_set_of_ne _ _ h

theorem Txq.endQueue_noArriving {cls c : Class} {x : Txq} (h : c ≠ cls → noArriving (x.queues.get c)) :
    noArriving ((x.endQueue cls).queues.get c) := by
  by_cases hc : c = cls
  · rw [hc, Txq.endQueue, Four.get_set_self]
    exact fun d hd => absurd hd List.not_mem_nil
  · rw [x.endQueue_get_of_ne hc]
    exact h hc

theorem Txq.endEach_ingress_of_noArriving (cs : List Class) {x : Txq} (h : ∀ c, noArriving (x.queues.get c)) :
    (cs.foldl (fun x c => x.endQueue c) x).ingress = x.ingress := by
  induction cs generalizing x with
  | nil => rfl
  | cons c cs ih => exact (ih fun b => endQueue_noArriving fun _ => h b).trans (endQueue_ingress_of_noArriving (h c))

/-- The one message that arrives is discarded with cause NotActive, when its class queue's turn comes. -/
theorem Txq.endEach_ingress_of_arriving {cls : Class} {d : Descriptor} (hd : d.st = .arriving) {cs : List Class}
    (hcls : cls ∈ cs) {x : Txq} (hlast : (x.queues.get cls).getLast? = some d)
    (hrest : noArriving (x.queues.get cls).dropLast) (hothers : ∀ c, c ≠ cls → noArriving (x.queues.get c)) :
    (cs.foldl (fun x c => x.endQueue c) x).ingress = .discarding .notActive cls d.tag := by
  induction cs generalizing x with
  | nil => exact absurd hcls List.not_mem_nil
  | cons c cs ih =>
    by_cases hc : c = cls
    · rw [hc]
      exact (endEach_ingress_of_noArriving cs fun b => endQueue_noArriving (hothers b)).trans
        (endQueue_ingress_of_arriving hlast hd hrest)
    · have hkept : (x.endQueue c).queues.get cls = x.queues.get cls := x.endQueue_get_of_ne (Ne.symm hc)
      exact ih (List.mem_of_ne_of_mem (Ne.symm hc) hcls) (hkept ▸ hlast) (hkept ▸ hrest)
        fun b hb => endQueue_noArriving fun _ => hothers b hb

theorem mem_classes (c : Class) : c ∈ [(0 : Class), 1, 2, 3] := by
  revert c
  decide

/-- The ingress record after the session end, under the laws of the class queues (R99, R100, R116). -/
theorem Txq.endQueues_ingress {s : State} (h : ClassQueueLaw s) :
    match s.txq.ingress with
    | .admitted cls _ => ∃ d, (s.txq.queues.get cls).getLast? = some d ∧
        s.txq.endQueues.ingress = .discarding .notActive cls d.tag
    | .discarding k c g => s.txq.endQueues.ingress = .discarding k c g
    | .none => s.txq.endQueues.ingress = .none := by
  obtain ⟨hqueues, hingress, -⟩ := h
  cases hi : s.txq.ingress with
  | none =>
    rw [hi] at hingress
    exact (endEach_ingress_of_noArriving [0, 1, 2, 3] hingress.1).trans hi
  | discarding k c g =>
    rw [hi] at hingress
    exact (endEach_ingress_of_noArriving [0, 1, 2, 3] hingress.1).trans hi
  | admitted cls written =>
    rw [hi] at hingress
    obtain ⟨hothers, d, hlast, hd, -⟩ := hingress
    obtain ⟨-, -, hrest⟩ := hqueues cls
    exact ⟨d, hlast, endEach_ingress_of_arriving hd (mem_classes cls) hlast hrest hothers⟩

end Sys2Proof.Machine
end

section
/-! SUPPORT. Entry into STOPPED and HALTED (R45, R46, R151): what it ends, what it keeps, and the records that wait. -/

namespace Sys2Proof.Machine

/-! ### Records that wait (R45, R151) -/

/-- Where egress is not idle, its framer stays, and what waits in the notice queue and in the delivery queues stays at
their heads. -/
def WaitingKept (s t : State) : Prop :=
  s.trb.framer ≠ .idle →
    t.trb.framer = s.trb.framer ∧ s.dlv.notices <+: t.dlv.notices ∧
      ∀ q, s.dlv.queues.get q <+: t.dlv.queues.get q

namespace WaitingKept

theorem of_eq {s t : State} (htrb : t.trb = s.trb) (hdlv : t.dlv = s.dlv) : WaitingKept s t := by
  intro _
  rw [htrb, hdlv]
  exact ⟨rfl, List.prefix_rfl, fun _ => List.prefix_rfl⟩

theorem trans {s t u : State} (h : WaitingKept s t) (g : WaitingKept t u) : WaitingKept s u := by
  intro hbusy
  obtain ⟨hframer, hnotices, hqueues⟩ := h hbusy
  obtain ⟨gframer, gnotices, gqueues⟩ := g (hframer ▸ hbusy)
  exact ⟨gframer.trans hframer, hnotices.trans gnotices, fun q => (hqueues q).trans (gqueues q)⟩

theorem foldl {α : Type} {f : State → α → State} (h : ∀ s a, WaitingKept s (f s a)) (as : List α) (s : State) :
    WaitingKept s (as.foldl f s) := by
  induction as generalizing s with
  | nil => exact .of_eq rfl rfl
  | cons a as ih => exact (h s a).trans (ih (f s a))

end WaitingKept

/-- Nothing is chosen while egress is not idle (R144). -/
theorem arbitrate_busy {s : State} (h : s.trb.framer ≠ .idle) : arbitrate s = s := by
  unfold arbitrate
  cases hf : s.trb.framer with
  | idle => exact absurd hf h
  | emitting r i => rfl
  | breakPending => rfl

theorem takeNotice_waiting (n : Notice) (s : State) : WaitingKept s (takeNotice n s) := by
  intro hbusy
  unfold takeNotice
  split
  · rw [arbitrate_busy (by exact hbusy)]
    exact ⟨rfl, List.prefix_append _ _, fun _ => List.prefix_rfl⟩
  · exact ⟨rfl, List.prefix_rfl, fun _ => List.prefix_rfl⟩

theorem endQueue_waiting (cls : Class) (s : State) : WaitingKept s (endQueue cls s) :=
  WaitingKept.foldl (fun s n => takeNotice_waiting n s) (flushNotices (s.txq.queues.get cls))
    { s with txq := s.txq.endQueue cls }

theorem txqSessionEnd_waiting (s : State) : WaitingKept s (txqSessionEnd s) :=
  (((endQueue_waiting 0 s).trans (endQueue_waiting 1 _)).trans (endQueue_waiting 2 _)).trans (endQueue_waiting 3 _)

theorem offerRecord_waiting (q : Class) (r : DeliveredRecord) (s : State) : WaitingKept s (offerRecord q r s) := by
  intro hbusy
  unfold offerRecord
  split
  · rw [arbitrate_busy (by exact hbusy)]
    refine ⟨rfl, List.prefix_rfl, fun p => ?_⟩
    by_cases hp : p = q
    · rw [hp, Four.get_set_self]
      exact List.prefix_append _ _
    · rw [Four.get_set_of_ne _ _ hp]
  · exact ⟨rfl, List.prefix_rfl, fun _ => List.prefix_rfl⟩

theorem handOff_waiting (r : DeliveredRecord) (s : State) : WaitingKept s (handOff r s) := by
  unfold handOff
  split
  · exact offerRecord_waiting _ r s
  · exact .of_eq rfl rfl

theorem abortContext_waiting (c : Context) (s : State) : WaitingKept s (abortContext .removal c s) := by
  rw [abortContext_removal]
  split
  · exact handOff_waiting _ (returnBuffers _ (countEvent .rxRemovalAbort { s with ras := _ }))
  · exact .of_eq rfl rfl

theorem rasSessionEnd_waiting (s : State) : WaitingKept s (rasSessionEnd s) := by
  obtain ⟨cs, ix, -, hend⟩ := rasSessionEnd_eq s
  rw [hend]
  exact WaitingKept.foldl (fun s c => abortContext_waiting c s) cs { s with freeIx := ix }

/-! ### The two session ends, in either order (R45) -/

/-- TXQ and RAS end their sessions one after the other, from a state whose index of free values alone may differ. -/
theorem endQueues_orders (s : State) :
    ∃ ix, endQueues s = rasSessionEnd (txqSessionEnd { s with freeIx := ix }) ∨
      endQueues s = txqSessionEnd (rasSessionEnd { s with freeIx := ix }) := by
  unfold endQueues
  split
  · rename_i hempty
    refine ⟨s.freeIx, .inl (rasSessionEnd_of_empty ?_).symm⟩
    simpa using hempty
  · split
    · exact ⟨_, .inl rfl⟩
    · exact ⟨_, .inr rfl⟩

section
variable (s : State)

@[simp] theorem endQueues_txq : (endQueues s).txq = s.txq.endQueues := by
  obtain ⟨ix, h | h⟩ := endQueues_orders s <;> rw [h] <;> simp

theorem endQueues_removalAborts :
    removalAborts (endQueues s) = min 65535 (removalAborts s + s.ras.contexts.length) := by
  have htxq (u : State) : removalAborts (txqSessionEnd u) = removalAborts u := by simp [removalAborts]
  obtain ⟨ix, h | h⟩ := endQueues_orders s
  · rw [h, rasSessionEnd_removalAborts, htxq]
    simp [removalAborts]
  · rw [h, htxq, rasSessionEnd_removalAborts]
    rfl

theorem endQueues_waiting : WaitingKept s (endQueues s) := by
  obtain ⟨ix, h | h⟩ := endQueues_orders s
  · rw [h]
    exact (txqSessionEnd_waiting { s with freeIx := ix }).trans (rasSessionEnd_waiting _)
  · rw [h]
    exact (rasSessionEnd_waiting { s with freeIx := ix }).trans (txqSessionEnd_waiting _)

/-- What the session ends of the queues leave is what the session's end leaves of these blocks. -/
theorem endSession_blocks :
    (endSession s).txq = (endQueues s).txq ∧ (endSession s).ras = (endQueues s).ras ∧
      (endSession s).dlv = (endQueues s).dlv ∧ (endSession s).trb = (endQueues s).trb ∧
      (endSession s).mgt = (endQueues s).mgt := by
  simp [endSession]

/-- What every session end clears (R45). -/
theorem endSession_cleared :
    (endSession s).txq.queues = Four.all [] ∧ (endSession s).ras.contexts = [] ∧
      (endSession s).ssu = ⟨Sched.empty, Sched.empty.digest, none⟩ ∧ (endSession s).alc.grants = none ∧
      (endSession s).cyc.timingLock = false ∧ (endSession s).cyc.position = .none ∧
      (endSession s).cyc.fixedAt = none ∧ (endSession s).cyc.listenTimer = .stopped ∧
      (endSession s).cyc.lineLost = .stopped ∧ (endSession s).cyc.coldStart = .stopped ∧
      (endSession s).cyc.bids = BidTable.clear ∧ (endSession s).cyc.outcome = none ∧
      (endSession s).cyc.eligibleLast = false ∧ (endSession s).cyc.leavePending = false ∧
      (endSession s).cyc.pendingLoad = none ∧ (endSession s).cyc.joinCycle = 0 ∧
      (endSession s).cyc.outOfStep = 0 ∧ (endSession s).cyc.echoFault = 0 ∧ (endSession s).lif.startEcho = none := by
  unfold endSession
  simp [endCyc, stopReceiver_startEcho, -endQueues_txq]

/-- The receiver finishes a frame in transmission, and is off without one (R12, R22). -/
theorem endSession_receiver :
    (endSession s).lif.receiver = if s.lif.tx.isSome then .finishing else .off := by
  have hstop (u : State) : (stopReceiver u).lif.receiver = if u.lif.tx.isSome then .finishing else .off := by
    unfold stopReceiver
    split <;> rfl
  rw [endSession, hstop]
  simp

/-- With the class queues gone the whole transmit pool is free (R95, R116). -/
theorem endSession_free (h : TxPoolLaw s) : (endSession s).txq.free = 256 := by
  have htotal : txTotal (endSession s) = 256 := (endSession_pools s).2.1.trans h
  have hheld : txHeld (endSession s).txq = 0 := by
    rw [txHeld, (endSession_cleared s).1]
    rfl
  rw [txTotal, hheld] at htotal
  exact htotal

end

/-! ### The entry before the session ends (R24, R46) -/

/-- `u` is the state in which the session ends: nothing but the station state, the halt cause and the event flags is
not as it was in `s`. -/
structure EntersFrom (s u : State) : Prop where
  lif : u.lif = s.lif
  txq : u.txq = s.txq
  ras : u.ras = s.ras
  dlv : u.dlv = s.dlv
  trb : u.trb = s.trb
  profile : u.mgt.profile = s.mgt.profile
  settings : u.mgt.settings = s.mgt.settings
  mask : u.mgt.mask = s.mgt.mask
  refusal : u.mgt.refusal = s.mgt.refusal
  counters : u.mgt.counters = s.mgt.counters
  joinAttempt : u.cyc.joinAttempt = s.cyc.joinAttempt

/-- `t` is the state after an entry into STOPPED or HALTED from `s`. -/
def EndsSession (s t : State) : Prop :=
  t = enterStopped s ∨ (s.cyc.state ≠ .halted ∧ ∃ h, t = enterHalted h s)

theorem EndsSession.entry {s t : State} (h : EndsSession s t) : ∃ u, EntersFrom s u ∧ t = endSession u := by
  rcases h with rfl | ⟨hs, cause, rfl⟩
  · exact ⟨enterState .stopped s, by constructor <;> simp, rfl⟩
  · refine ⟨_, ?_, if_neg hs⟩
    constructor <;> simp

section
variable {s u : State} (e : EntersFrom s u)
include e

/-- The blocks after the session end are those after the two session ends of TXQ and RAS, from the state before the
entry but for what an entry writes. -/
theorem EntersFrom.ends :
    ∃ w v : State, w.txq = s.txq ∧ w.ras = s.ras ∧ w.dlv = s.dlv ∧ w.trb = s.trb ∧
      w.mgt.settings = s.mgt.settings ∧ w.mgt.counters = s.mgt.counters ∧
      (v = rasSessionEnd (txqSessionEnd w) ∨ v = txqSessionEnd (rasSessionEnd w)) ∧
      (endSession u).txq = v.txq ∧ (endSession u).ras = v.ras ∧ (endSession u).dlv = v.dlv ∧
      (endSession u).trb = v.trb ∧ (endSession u).mgt.counters = v.mgt.counters := by
  obtain ⟨ix, horder⟩ := endQueues_orders u
  obtain ⟨htxq, hras, hdlv, htrb, hmgt⟩ := endSession_blocks u
  exact ⟨{ u with freeIx := ix }, endQueues u, e.txq, e.ras, e.dlv, e.trb, e.settings, e.counters, horder, htxq, hras,
    hdlv, htrb, by rw [hmgt]⟩

theorem EntersFrom.counted :
    removalAborts (endSession u) = min 65535 (removalAborts s + s.ras.contexts.length) := by
  obtain ⟨-, -, -, -, hmgt⟩ := endSession_blocks u
  have hcount := endQueues_removalAborts u
  rw [removalAborts, hmgt]
  rw [e.ras, removalAborts, removalAborts, e.counters] at hcount
  exact hcount

theorem EntersFrom.waiting : WaitingKept s (endSession u) := by
  obtain ⟨-, -, hdlv, htrb, -⟩ := endSession_blocks u
  exact (WaitingKept.of_eq e.trb e.dlv).trans ((endQueues_waiting u).trans (.of_eq htrb hdlv))

/-- The message that was arriving is discarded with cause NotActive, and one that was being discarded still is
(R116). -/
theorem EntersFrom.ingress (h : ClassQueueLaw s) :
    match s.txq.ingress with
    | .admitted cls _ => ∃ d, (s.txq.queues.get cls).getLast? = some d ∧
        (endSession u).txq.ingress = .discarding .notActive cls d.tag
    | .discarding k c g => (endSession u).txq.ingress = .discarding k c g
    | .none => (endSession u).txq.ingress = .none := by
  have htxq : (endSession u).txq = s.txq.endQueues := by
    rw [(endSession_blocks u).1, endQueues_txq, e.txq]
  rw [htxq]
  exact Txq.endQueues_ingress h

end

end Sys2Proof.Machine

open Sys2Proof Sys2Proof.Machine

/-- Settles O15: either entry ends the session of a state that is as the one before it, but for the marks of the
entry. -/
theorem sessionEnd : Obligations.SessionEnd := by
  refine ⟨fun s t hpool ht => ?_, fun s hs => ?_, fun h s hs => ?_, fun h s hs => if_pos hs, fun s t hlaw ht => ?_,
    fun s t ht => ?_, fun s => ?_, rasSessionEnd_eq, fun c s _ => abortContext_removal c s⟩
  · obtain ⟨u, e, rfl⟩ := EndsSession.entry ht
    obtain ⟨hqueues, hcontexts, hssu, hgrants, hlock, hposition, hfixed, hlisten, hlost, hcold, hbids, houtcome,
      heligible, hleave, hload, hcycle, hout, hecho, hstart⟩ := endSession_cleared u
    refine ⟨fun c => by rw [hqueues, Four.get_all], ?_, ?_, hcontexts, hssu, hgrants, hlock, hposition, hfixed, hlisten,
      hlost, hcold, hbids, houtcome, heligible, hleave, hload, hcycle, hout, hecho, ?_, ?_, ?_, hstart,
      e.counted, ?_, ?_, ?_, ?_, ?_⟩
    · exact endSession_free u (by rw [TxPoolLaw, e.txq]; exact hpool)
    · simp [e.txq]
    · simp [e.joinAttempt]
    · simp [e.lif]
    · rw [endSession_receiver, e.lif]
    · simp [e.profile]
    · simp [e.settings]
    · simp [e.mask]
    · simp [e.refusal]
    · simp [e.trb]
  · have hrise := marksRise_opRel.of_enterStopped s
    exact ⟨enterStopped_state s, by simp, hrise.2.2 (by simpa using hs.symm)⟩
  · obtain ⟨hstate, hcause, -⟩ := enterHalted_cause (cause := h) hs
    have hrise := marksRise_opRel.of_enterHalted h s
    refine ⟨hstate, hcause, hrise.2.2 (by simpa using hs.symm), ?_⟩
    rw [enterHalted, if_neg hs]
    exact (marksRise_opRel.of_endSession _).1 .halt rfl
  · obtain ⟨u, e, rfl⟩ := EndsSession.entry ht
    exact e.ingress hlaw
  · obtain ⟨u, e, rfl⟩ := EndsSession.entry ht
    exact ⟨e.ends, e.waiting⟩
  · intro flushed
    have hflushed (q : List Descriptor) : flushed q = flushNotices q := by
      refine congrArg (q.filterMap ·) (funext fun d => ?_)
      rw [Descriptor.flushNotice]
      cases d.st <;> rfl
    simp only [hflushed]
    rw [txqSessionEnd_txq]
    exact txqSessionEnd_eq s

end

section
/-! SUPPORT. OWN_BID: where the bid is placed (R19, R49), and the demand snapshot it carries (R50). -/

namespace Sys2Proof.Machine

/-! ### OWN_BID (R19, R49) -/

theorem StationState.bids_iff (st : StationState) :
    st.bids = true ↔ st = .joining ∨ st = .inStep ∨ st = .blind ∨ st = .outOfStep := by
  cases st <;> simp [StationState.bids]

theorem nextState_ownBid_of_not_bids {s : State} (h : s.cyc.state.bids = false) : nextState .ownBid s = s := by
  rw [nextState_ownBid, h, Bool.and_false, Bool.false_and, if_neg Bool.false_ne_true]

theorem nextState_ownBid_placed {s : State} (hfree : lineFree s = true) (hbids : s.cyc.state.bids = true)
    (hplace : bidPlaceable s = true) : nextState .ownBid s = transmit (.bid (ownBidFrame s)) s := by
  rw [nextState_ownBid, hfree, hbids, hplace, Bool.and_self, Bool.and_self, if_pos rfl]

/-- OWN_BID does nothing, or hands the own bid to LIF. -/
theorem nextState_ownBid_cases (s : State) :
    nextState .ownBid s = s ∨ nextState .ownBid s = transmit (.bid (ownBidFrame s)) s := by
  rw [nextState_ownBid]
  split
  · exact .inr rfl
  · exact .inl rfl

theorem ownBidFrame_demand (s : State) :
    (ownBidFrame s).demand =
      if s.cyc.state = .inStep ∧ s.cyc.leavePending = false then demandSnapshot s else Four.all 0 := by
  simp only [ownBidFrame, Bool.and_eq_true, decide_eq_true_eq, Bool.not_eq_true']

theorem ownBidFrame_joining (s : State) :
    (ownBidFrame s).joining = (!s.cyc.leavePending && decide (s.cyc.state = .joining)) := by
  rw [← beq_eq_decide]
  rfl

theorem ownBidFrame_resync (s : State) :
    (ownBidFrame s).resync =
      (!s.cyc.leavePending && decide (s.cyc.state = .blind ∨ s.cyc.state = .outOfStep)) := by
  rw [Bool.decide_or, ← beq_eq_decide, ← beq_eq_decide]
  rfl

/-! ### The demand snapshot (R50) -/

/-- A Queued or Sending descriptor counts its segments not yet sent, an Aborting one counts one (R50). -/
theorem Descriptor.demand_eq (d : Descriptor) :
    d.demand =
      (if (d.st == .queued || d.st == .sending) = true then d.segments - d.next else 0) +
        (if d.st = .aborting then 1 else 0) := by
  unfold Descriptor.demand
  cases d.st <;> rfl

/-- Without an Aborting descriptor the Queued and Sending ones make up the whole count (R50). -/
theorem sum_demand_of_no_aborting {q : List Descriptor} (h : ∀ d ∈ q, d.st ≠ .aborting) :
    (q.map Descriptor.demand).sum =
      ((q.filter (fun d => d.st == .queued || d.st == .sending)).map (fun d => d.segments - d.next)).sum := by
  induction q with
  | nil => rfl
  | cons d rest ih =>
    obtain ⟨hd, hrest⟩ := List.forall_mem_cons.mp h
    rw [List.map_cons, List.sum_cons, ih hrest, d.demand_eq, if_neg hd, List.filter_cons]
    split
    · rfl
    · exact Nat.zero_add _

/-- In a lawful class queue only the head can be Aborting, and it then adds one to the count (R50, R99). -/
theorem sum_demand_cons {cls : Class} {d : Descriptor} {rest : List Descriptor} (h : QueueLaw cls (d :: rest)) :
    ((d :: rest).map Descriptor.demand).sum =
      (((d :: rest).filter (fun d => d.st == .queued || d.st == .sending)).map (fun d => d.segments - d.next)).sum +
        (if d.st = .aborting then 1 else 0) := by
  obtain ⟨-, htail, -⟩ := h
  rw [List.map_cons, List.sum_cons, sum_demand_of_no_aborting (q := rest) fun e he => (htail e he).2, d.demand_eq,
    List.filter_cons]
  split
  · rw [List.map_cons, List.sum_cons]
    omega
  · omega

theorem classDemand_eq (budget : Nat) (q : List Descriptor) :
    classDemand budget q = min budget (q.map Descriptor.demand).sum := by
  rw [classDemand, List.sum_eq_foldl]

theorem Profile.budget_lt (p : Profile) : p.budget < 256 := p.b.isLt

/-- No count is lost in the byte of the BID, since B is below 256 (R50, 11.1). -/
theorem natByte_classDemand (p : Profile) (q : List Descriptor) :
    (natByte (classDemand p.budget q)).toNat = min p.budget (q.map Descriptor.demand).sum := by
  rw [classDemand_eq, natByte, BitVec.toNat_ofNat]
  have := p.budget_lt
  exact Nat.mod_eq_of_lt (by omega)

theorem demandSnapshot_get (s : State) (c : Sys2Proof.Class) :
    (demandSnapshot s).get c = natByte (classDemand s.mgt.profile.budget (s.txq.queues.get c)) := by
  match c with
  | 0 => rfl
  | 1 => rfl
  | 2 => rfl
  | 3 => rfl

end Sys2Proof.Machine

open Sys2Proof Sys2Proof.Machine

/-- Settles O23: R19's conditions are the guard of OWN_BID, and the frame is R49's field by field. -/
theorem ownBidComposed : Obligations.OwnBidComposed := by
  refine ⟨fun s a htx hecho hstate hlock hposition hann hfixed hrecord => ?_, fun s hstate => ?_⟩
  · have hplaced : placedBefore (ownNumber s).val s.cyc = true := (placedBefore_iff _ _).mpr ⟨a, hann, hfixed⟩
    have hplace : bidPlaceable s = true := (bidPlaceable_iff s).mpr ⟨hlock, hposition, hrecord, hplaced⟩
    rw [exec_eq_next,
      nextState_ownBid_placed (lineFree_eq_true htx hecho) ((StationState.bids_iff _).mpr hstate) hplace]
    dsimp only
    rw [← ownBidFrame_joining, ← ownBidFrame_resync, ← ownBidFrame_demand]
    rfl
  · rw [exec_eq_next, nextState_ownBid_of_not_bids]
    rcases hstate with h | h | h | h | h | h <;> rw [h] <;> rfl

/-- Settles O24: the queue law leaves an Aborting descriptor at the head alone, and OWN_BID writes nothing but LIF. -/
theorem demandSnapshotCounts : Obligations.DemandSnapshotCounts := by
  refine ⟨fun s c hlaw => ?_, fun s t h => ?_, fun s t b h htx hbid => ?_⟩
  · rw [demandSnapshot_get, natByte_classDemand]
    obtain ⟨hqueues, -⟩ := hlaw
    have hq := hqueues c
    revert hq
    cases s.txq.queues.get c with
    | nil => exact fun _ => rfl
    | cons d rest => exact fun hq => congrArg _ (sum_demand_cons hq)
  · obtain rfl := nextState_of_exec h
    rcases nextState_ownBid_cases s with e | e
    · rw [e]
    · simp [e]
  · obtain rfl := nextState_of_exec h
    rcases nextState_ownBid_cases s with e | e
    · rw [e, htx] at hbid
      cases hbid
    · rw [e, transmit_tx] at hbid
      cases hbid
      exact ownBidFrame_demand s
end

section
/-! SUPPORT. The decisions of an announcement phase (R55 to R59): the candidates in station order, the largest group,
and what is chosen as the lowest of its kind. -/

namespace Sys2Proof.Machine

/-! ### The largest group (R56) -/

theorem largestGroup_eq_none {all cs : List ValidBid} : largestGroup all cs = none ↔ cs = [] := by
  cases cs with
  | nil => exact iff_of_true rfl rfl
  | cons b rest =>
    refine iff_of_false (fun h => ?_) (List.cons_ne_nil _ _)
    rw [largestGroup] at h
    split at h
    · cases h
    · split at h <;> cases h

/-- The choice falls on the first bid whose group is largest: every group before it is smaller, and none after it is
larger. -/
theorem largestGroup_first {all cs : List ValidBid} {h : Half} (hcs : largestGroup all cs = some h) :
    ∃ pre b post, cs = pre ++ b :: post ∧ b.digest = h ∧ (∀ c ∈ pre, groupSize all c.digest < groupSize all h) ∧
      ∀ c ∈ post, groupSize all c.digest ≤ groupSize all h := by
  induction cs generalizing h with
  | nil => cases hcs
  | cons b rest ih =>
    rw [largestGroup] at hcs
    cases hrest : largestGroup all rest with
    | none =>
      rw [hrest] at hcs
      cases hcs
      obtain rfl := largestGroup_eq_none.mp hrest
      exact ⟨[], b, [], rfl, rfl, by simp, by simp⟩
    | some g =>
      simp only [hrest] at hcs
      obtain ⟨pre, lead, post, hsplit, hlead, hpre, hpost⟩ := ih hrest
      by_cases hle : groupSize all g ≤ groupSize all b.digest
      · rw [if_pos hle] at hcs
        cases hcs
        refine ⟨[], b, rest, rfl, rfl, by simp, fun c hc => ?_⟩
        rw [hsplit, List.mem_append, List.mem_cons] at hc
        rcases hc with hc | rfl | hc
        · exact (hpre c hc).le.trans hle
        · exact hlead ▸ hle
        · exact (hpost c hc).trans hle
      · rw [if_neg hle] at hcs
        cases hcs
        exact ⟨b :: pre, lead, post, by rw [hsplit]; rfl, hlead,
          List.forall_mem_cons.mpr ⟨not_le.mp hle, hpre⟩, hpost⟩

theorem referenceDigest_eq_none {cs : List ValidBid} : referenceDigest cs = none ↔ cs = [] := largestGroup_eq_none

theorem referenceDigest_mem {cs : List ValidBid} {h : Half} (href : referenceDigest cs = some h) :
    ∃ b ∈ cs, b.digest = h := by
  obtain ⟨pre, lead, post, rfl, hlead, -, -⟩ := largestGroup_first href
  exact ⟨lead, by simp, hlead⟩

theorem groupSize_le_reference {cs : List ValidBid} {h : Half} (href : referenceDigest cs = some h) {b : ValidBid}
    (hb : b ∈ cs) : groupSize cs b.digest ≤ groupSize cs h := by
  obtain ⟨pre, lead, post, hsplit, hlead, hpre, hpost⟩ := largestGroup_first href
  rw [hsplit, List.mem_append, List.mem_cons] at hb
  rcases hb with hb | rfl | hb
  · exact (hpre b hb).le
  · rw [hlead]
  · exact hpost b hb

/-! ### Lists of bids in station order -/

section
variable {cs : List ValidBid} (ordered : cs.Pairwise (fun b c => b.station.val < c.station.val))
include ordered

/-- Of tied groups the reference's has the lowest candidate (R56). -/
theorem reference_lower_of_tie {h : Half} (href : referenceDigest cs = some h) {b : ValidBid} (hb : b ∈ cs)
    (htie : groupSize cs b.digest = groupSize cs h) (hne : b.digest ≠ h) :
    ∃ c ∈ cs, c.digest = h ∧ c.station.val < b.station.val := by
  obtain ⟨pre, lead, post, hsplit, hlead, hpre, -⟩ := largestGroup_first href
  have hmem : lead ∈ cs := by simp [hsplit]
  rw [hsplit, List.mem_append, List.mem_cons] at hb
  rcases hb with hb | rfl | hb
  · exact absurd htie (hpre b hb).ne
  · exact absurd hlead hne
  · rw [hsplit] at ordered
    exact ⟨lead, hmem, hlead, List.rel_of_pairwise_cons (List.pairwise_append.mp ordered).2.1 hb⟩

/-- A station has one bid at most. -/
theorem eq_of_station_eq {b c : ValidBid} (hb : b ∈ cs) (hc : c ∈ cs) (h : b.station = c.station) : b = c := by
  have hnodup : (cs.map ValidBid.station).Nodup :=
    List.pairwise_map.mpr (ordered.imp fun hlt heq => hlt.ne (congrArg Fin.val heq))
  exact List.inj_on_of_nodup_map hnodup hb hc h

/-- The first bid that has a property is the one with the lowest station. -/
theorem find?_eq_some_iff_lowest {p : ValidBid → Bool} {b : ValidBid} :
    cs.find? p = some b ↔
      b ∈ cs ∧ p b = true ∧ ∀ c ∈ cs, p c = true → b.station.val ≤ c.station.val := by
  have lowest {a : ValidBid} (h : cs.find? p = some a) :
      a ∈ cs ∧ p a = true ∧ ∀ c ∈ cs, p c = true → a.station.val ≤ c.station.val := by
    obtain ⟨hp, pre, post, hsplit, hpre⟩ := List.find?_eq_some_iff_append.mp h
    refine ⟨by simp [hsplit], hp, fun c hc hpc => ?_⟩
    rw [hsplit, List.mem_append, List.mem_cons] at hc
    rcases hc with hc | rfl | hc
    · exact absurd hpc (by simpa using hpre c hc)
    · exact le_rfl
    · rw [hsplit] at ordered
      exact (List.rel_of_pairwise_cons (List.pairwise_append.mp ordered).2.1 hc).le
  refine ⟨lowest, fun ⟨hb, hp, hle⟩ => ?_⟩
  obtain ⟨a, ha⟩ := Option.isSome_iff_exists.mp (List.find?_isSome.mpr ⟨b, hb, hp⟩)
  obtain ⟨hmem, hpa, hmin⟩ := lowest ha
  have hstation : a.station = b.station := Fin.ext (le_antisymm (hmin b hb hp) (hle a hmem hpa))
  rw [ha, eq_of_station_eq ordered hmem hb hstation]

end

/-! ### The candidates (R55) -/

theorem mem_validBids_of_law {p : Profile} {t : BidTable} (hlaw : BidTableLaw p t) (b : ValidBid) :
    b ∈ validBids t ↔ (t.record b.station.val).status = .valid b := by
  rw [mem_validBids_iff]
  refine ⟨fun ⟨st, hst⟩ => ?_, fun h => ⟨b.station, h⟩⟩
  rw [(hlaw.2 st.val b hst).1]
  exact hst

theorem mem_candidates_iff {p : Profile} {t : BidTable} (hlaw : BidTableLaw p t) (d : Sched) (b : ValidBid) :
    b ∈ candidates t d ↔
      (t.record b.station.val).status = .valid b ∧ (d.row b.station).member = true ∧ b.flag ≠ .joining := by
  rw [candidates, List.mem_filter, mem_validBids_of_law hlaw, Bool.and_eq_true, bne_iff_ne]

/-- The Valid bid of a slot (R55). -/
def validBidOf (t : BidTable) (st : Station) : Option ValidBid :=
  match (t.record st.val).status with
  | .valid b => some b
  | .unheard => none
  | .silent => none
  | .damaged => none

theorem validBidOf_eq_some (t : BidTable) (st : Station) (b : ValidBid) :
    validBidOf t st = some b ↔ (t.record st.val).status = .valid b := by
  unfold validBidOf
  cases (t.record st.val).status <;> simp

theorem validBids_eq (t : BidTable) : validBids t = stations.filterMap (validBidOf t) := rfl

theorem candidates_ordered {p : Profile} {t : BidTable} (hlaw : BidTableLaw p t) (d : Sched) :
    (candidates t d).Pairwise (fun b c => b.station.val < c.station.val) := by
  have hstations : stations.Pairwise (fun a b => a.val < b.val) := by decide
  have hvalid : (validBids t).Pairwise (fun b c => b.station.val < c.station.val) := by
    rw [validBids_eq]
    refine hstations.filterMap _ fun a a' hlt b hb b' hb' => ?_
    have hstation {st : Station} {b : ValidBid} (hb : validBidOf t st = some b) : b.station = st :=
      Fin.ext (hlaw.2 st.val b ((validBidOf_eq_some t st b).mp hb)).1
    rw [hstation hb, hstation hb']
    exact hlt
  exact hvalid.filter _

/-! ### The eligible set (R57) -/

theorem eligibleBids_eq_nil {cs : List ValidBid} (href : referenceDigest cs = none) : eligibleBids cs = [] := by
  rw [eligibleBids, href]

theorem eligibleBids_eq_filter {cs : List ValidBid} {h : Half} {lead : ValidBid} (href : referenceDigest cs = some h)
    (hlead : cs.find? (fun b => b.digest == h) = some lead) :
    eligibleBids cs = cs.filter (fun b => b.digest == h && b.cycle == lead.cycle) := by
  simp only [eligibleBids, href, hlead]

/-- The bids that carry the reference digest have a first one, the leader whose cycle number R57 takes. -/
theorem exists_lead {cs : List ValidBid} {h : Half} (href : referenceDigest cs = some h) :
    ∃ lead, cs.find? (fun b => b.digest == h) = some lead := by
  obtain ⟨b, hb, hdigest⟩ := referenceDigest_mem href
  exact Option.isSome_iff_exists.mp (List.find?_isSome.mpr ⟨b, hb, beq_iff_eq.mpr hdigest⟩)

theorem eligibleBids_sublist (cs : List ValidBid) : (eligibleBids cs).Sublist cs := by
  cases href : referenceDigest cs with
  | none =>
    rw [eligibleBids_eq_nil href]
    exact List.nil_sublist cs
  | some h =>
    obtain ⟨lead, hlead⟩ := exists_lead href
    rw [eligibleBids_eq_filter href hlead]
    exact List.filter_sublist

section
variable {cs : List ValidBid} (ordered : cs.Pairwise (fun b c => b.station.val < c.station.val))
include ordered

theorem mem_eligibleBids_iff (b : ValidBid) :
    b ∈ eligibleBids cs ↔
      b ∈ cs ∧ referenceDigest cs = some b.digest ∧
        ∃ lead ∈ cs, lead.digest = b.digest ∧ lead.cycle = b.cycle ∧
          ∀ c ∈ cs, c.digest = b.digest → lead.station.val ≤ c.station.val := by
  cases href : referenceDigest cs with
  | none => simp [eligibleBids_eq_nil href]
  | some h =>
    obtain ⟨lead, hlead⟩ := exists_lead href
    rw [eligibleBids_eq_filter href hlead, List.mem_filter, Bool.and_eq_true, beq_iff_eq, beq_iff_eq,
      Option.some.injEq]
    have hlowest (a : ValidBid) : cs.find? (fun b => b.digest == h) = some a ↔
        a ∈ cs ∧ a.digest = h ∧ ∀ c ∈ cs, c.digest = h → a.station.val ≤ c.station.val := by
      simpa only [beq_iff_eq] using find?_eq_some_iff_lowest (p := fun b => b.digest == h) (b := a) ordered
    constructor
    · rintro ⟨hb, rfl, hcycle⟩
      obtain ⟨hmem, hdigest, hmin⟩ := (hlowest lead).mp hlead
      exact ⟨hb, rfl, lead, hmem, hdigest, hcycle.symm, hmin⟩
    · rintro ⟨hb, rfl, a, hmem, hdigest, hcycle, hmin⟩
      have ha := (hlowest a).mpr ⟨hmem, hdigest, hmin⟩
      rw [hlead] at ha
      cases ha
      exact ⟨hb, rfl, hcycle.symm⟩

theorem station_mem_eligible_iff {b : ValidBid} (hb : b ∈ cs) :
    b.station ∈ (eligibleBids cs).map ValidBid.station ↔ b ∈ eligibleBids cs := by
  refine ⟨fun h => ?_, List.mem_map_of_mem⟩
  obtain ⟨c, hc, hstation⟩ := List.mem_map.mp h
  exact eq_of_station_eq ordered (eligibleBids_subset hc) hb hstation ▸ hc

/-! ### The table source (R58) and its placement (R59) -/

theorem tableSource_eq_some_iff (st : Station) :
    tableSource cs = some st ↔
      ∃ b ∈ cs, b.station = st ∧ b.flag = .none ∧ ∀ c ∈ cs, c.flag = .none → st.val ≤ c.station.val := by
  simp only [tableSource, Option.map_eq_some_iff, find?_eq_some_iff_lowest ordered, beq_iff_eq]
  constructor
  · rintro ⟨b, ⟨hb, hflag, hmin⟩, rfl⟩
    exact ⟨b, hb, rfl, hflag, hmin⟩
  · rintro ⟨b, hb, rfl, hflag, hmin⟩
    exact ⟨b, ⟨hb, hflag, hmin⟩, rfl⟩

end

theorem tableWanted_iff (t : BidTable) :
    tableWanted t = true ↔
      ∃ (st : Station) (b : ValidBid), (t.record st.val).status = .valid b ∧
        (b.flag = .joining ∨ b.flag = .resync) := by
  simp only [tableWanted, List.any_eq_true, mem_validBids_iff, Bool.or_eq_true, beq_iff_eq]
  constructor
  · rintro ⟨b, ⟨st, hst⟩, hflag⟩
    exact ⟨st, b, hst, hflag⟩
  · rintro ⟨st, b, hst, hflag⟩
    exact ⟨b, ⟨st, hst⟩, hflag⟩

end Sys2Proof.Machine

open Sys2Proof Sys2Proof.Machine

/-- Settles O34: the reference is the digest of the first bid whose group is largest, and first is lowest. -/
theorem referenceDigestOfCandidates : Obligations.ReferenceDigest := by
  intro cs ordered
  refine ⟨referenceDigest_eq_none, fun h href => ⟨referenceDigest_mem href, fun b hb => ?_, fun b hb htie hne => ?_⟩⟩
  · exact groupSize_le_reference href hb
  · exact reference_lower_of_tie ordered href hb htie hne

/-- Settles O35: a lawful bid table gives its candidates in station order, where the first of a kind is the lowest. -/
theorem agreementDecisions : Obligations.AgreementDecisions := by
  intro own p t d hlaw cs o
  have ordered : cs.Pairwise (fun b c => b.station.val < c.station.val) := candidates_ordered hlaw d
  have helig : (eligibleBids cs).Pairwise (fun b c => b.station.val < c.station.val) :=
    ordered.sublist (eligibleBids_sublist cs)
  refine ⟨mem_candidates_iff hlaw d, ordered, rfl, fun st => ?_, List.contains_iff_mem, fun st => ?_, ?_, rfl⟩
  · show st ∈ (eligibleBids cs).map ValidBid.station ↔ _
    rw [List.mem_map]
    refine exists_congr fun b => ?_
    rw [mem_eligibleBids_iff ordered]
    exact ⟨fun ⟨⟨hb, href, hlead⟩, hst⟩ => ⟨hb, hst, href, hlead⟩,
      fun ⟨hb, hst, href, hlead⟩ => ⟨⟨hb, href, hlead⟩, hst⟩⟩
  · refine (tableSource_eq_some_iff helig st).trans (exists_congr fun b => ?_)
    constructor
    · rintro ⟨hb, rfl, hflag, hmin⟩
      exact ⟨eligibleBids_subset hb, rfl, List.mem_map_of_mem hb, hflag,
        fun c hc hmem => hmin c ((station_mem_eligible_iff ordered hc).mp hmem)⟩
    · rintro ⟨hb, rfl, hmem, hflag, hmin⟩
      exact ⟨(station_mem_eligible_iff ordered hb).mp hmem, rfl, hflag,
        fun c hc => hmin c (eligibleBids_subset hc) (List.mem_map_of_mem hc)⟩
  · show (tableWanted t && o.source.isSome) = true ↔ _
    rw [Bool.and_eq_true, tableWanted_iff, Option.isSome_iff_ne_none]
end

section
/-! SUPPORT. The schedule state: the rows that a commit forms (R66 to R69), the items of the serialisation (R65, 11.1), and
a TABLE judged and loaded (R71 to R73). -/

namespace Sys2Proof.Machine

/-! ### The rows of a commit (R66 to R69) -/

theorem committedSched_row (limit : Nat) (t : BidTable) (as : List Account) (pointer : Nat) (d : Sched) (st : Station) :
    (committedSched limit t as pointer d).row st =
      updateRow limit (t.record st.val).status (d.row st).member (dealDeficits as st (d.row st)) :=
  Sched.mapRows_row (fun st row =>
    updateRow limit (t.record st.val).status (d.row st).member (dealDeficits as st row)) d st

theorem dealDeficits_silence (as : List Account) (st : Station) (row : SchedRow) :
    (dealDeficits as st row).silence = row.silence := by
  unfold dealDeficits
  split <;> rfl

section
variable {limit : Nat} {row : SchedRow}

theorem updateRow_silent_removed (h : limit ≤ row.silence + 1) :
    updateRow limit .silent true row = SchedRow.clear := if_pos h

theorem updateRow_silent_kept (h : row.silence + 1 < limit) :
    updateRow limit .silent true row = { row with silence := row.silence + 1 } := if_neg h.not_ge

theorem updateRow_heard {b : ValidBid} (h : b.flag = .none ∨ b.flag = .resync) :
    updateRow limit (.valid b) true row = { row with silence := 0 } := by
  rcases h with h | h <;> simp only [updateRow, h, if_true]

theorem updateRow_joining {b : ValidBid} {member : Bool} (h : b.flag = .joining) :
    updateRow limit (.valid b) member row = ⟨true, 0, 0, 0, 0⟩ := by
  simp only [updateRow, h]

theorem updateRow_leaving {b : ValidBid} (h : b.flag = .leaving) :
    updateRow limit (.valid b) true row = SchedRow.clear := by
  simp only [updateRow, h, if_true]

/-- A bid without the joining flag changes nothing for a station that is no member (R67 to R69). -/
theorem updateRow_outsider {b : ValidBid} (h : b.flag ≠ .joining) :
    updateRow limit (.valid b) false row = row := by
  cases hflag : b.flag with
  | joining => exact absurd hflag h
  | none | resync | leaving => simp only [updateRow, hflag, Bool.false_eq_true, if_false]

end

/-! ### The items of the serialisation (R65, 11.1) -/

theorem toNat_natByte {n : Nat} (h : n ≤ 255) : (natByte n).toNat = n :=
  (BitVec.toNat_ofNat n 8).trans (Nat.mod_eq_of_lt (by omega))

/-- Bit `k` of the membership bits is the membership of station `k`. -/
theorem memberBits_getLsbD (d : Sched) (k : Station) : d.memberBits.getLsbD k.val = (d.row k).member := by
  obtain ⟨members, hmembers⟩ : ∃ members : Half, ∀ s : Station, members.getLsbD s.val = (d.row s).member :=
    ⟨BitVec.ofFnLE fun s => (d.row s).member, fun s => by simp⟩
  have hgathered : d.memberBits =
      stations.foldl (fun acc s => if members.getLsbD s.val then acc ||| (1#16 <<< s.val) else acc) 0#16 := by
    simp only [hmembers, Sched.memberBits]
  have hany : stations.any (fun s => s.val == k.val) = true :=
    List.any_eq_true.mpr ⟨k, mem_stations k, beq_self_eq_true _⟩
  rw [hgathered, gatherBits_getLsbD _ _ _ _ k.isLt, hany, hmembers]
  simp

section
variable (d : Sched) (k : Station)

theorem serialise_length : d.serialise.length = 69 := rfl

theorem serialise_silence : d.serialise.getD (5 + k.val) 0 = natByte (d.row k).silence := by
  fin_cases k <;> rfl

theorem serialise_d1 : d.serialise.getD (21 + 3 * k.val) 0 = natByte (d.row k).d1 := by
  fin_cases k <;> rfl

theorem serialise_d2 : d.serialise.getD (22 + 3 * k.val) 0 = natByte (d.row k).d2 := by
  fin_cases k <;> rfl

theorem serialise_d3 : d.serialise.getD (23 + 3 * k.val) 0 = natByte (d.row k).d3 := by
  fin_cases k <;> rfl

end

section
variable {d : Sched} (hlength : d.rows.length = 16)
include hlength

theorem stations_map_row : stations.map d.row = d.rows := by
  have h := map_range_getD d.rows SchedRow.clear
  rw [hlength] at h
  exact h

theorem row_mem_rows (k : Station) : d.row k ∈ d.rows := by
  rw [← stations_map_row hlength]
  exact List.mem_map_of_mem (mem_stations k)

/-- A schedule state whose items fit into their bytes is read back from its serialisation (R65). -/
theorem ofBytes_serialise (hpointer : d.pointer ≤ 255)
    (hrows : ∀ r ∈ d.rows, r.silence ≤ 255 ∧ r.d1 ≤ 255 ∧ r.d2 ≤ 255 ∧ r.d3 ≤ 255) :
    Sched.ofBytes d.serialise = d := by
  have hcycle : (Sched.ofBytes d.serialise).cycle = d.cycle := halfOf_hiByte_loByte d.cycle
  have hpointer' : (Sched.ofBytes d.serialise).pointer = d.pointer := toNat_natByte hpointer
  have hmembers : halfOf (d.serialise.getD 3 0) (d.serialise.getD 4 0) = d.memberBits :=
    halfOf_hiByte_loByte d.memberBits
  have hrows' : (Sched.ofBytes d.serialise).rows = d.rows := by
    rw [← stations_map_row hlength]
    refine List.map_congr_left fun st _ => ?_
    obtain ⟨hs, h1, h2, h3⟩ := hrows _ (row_mem_rows hlength st)
    rw [hmembers, memberBits_getLsbD, serialise_silence, serialise_d1, serialise_d2, serialise_d3, toNat_natByte hs,
      toNat_natByte h1, toNat_natByte h2, toNat_natByte h3]
  calc Sched.ofBytes d.serialise
    _ = ⟨(Sched.ofBytes d.serialise).cycle, (Sched.ofBytes d.serialise).pointer, (Sched.ofBytes d.serialise).rows⟩ := rfl
    _ = d := by rw [hcycle, hpointer', hrows']

end

/-! ### The judgment of a TABLE (R71, R72) -/

theorem loads_iff (x : StationState) : x.loads = true ↔ x = .joining ∨ x = .blind ∨ x = .outOfStep := by
  cases x <;> simp [StationState.loads]

theorem row_eq_clear_iff (row : SchedRow) :
    row = SchedRow.clear ↔ row.member = false ∧ row.silence = 0 ∧ row.d1 = 0 ∧ row.d2 = 0 ∧ row.d3 = 0 := by
  cases row
  simp [SchedRow.clear]

theorem withinBounds_iff (p : Profile) (d : Sched) :
    withinBounds p d = true ↔ d.pointer ≤ 15 ∧ ∀ st : Station,
      ((d.row st).member = true → st.val < p.lineSize ∧ (d.row st).silence < p.limit ∧
        (d.row st).d1 ≤ 4 * p.quantum 1 ∧ (d.row st).d2 ≤ 4 * p.quantum 2 ∧ (d.row st).d3 ≤ 4 * p.quantum 3) ∧
      ((d.row st).member = false → d.row st = SchedRow.clear) := by
  rw [withinBounds, Bool.and_eq_true, decide_eq_true_eq, List.all_eq_true]
  refine and_congr_right' (forall_congr' fun st => ?_)
  cases hm : (d.row st).member with
  | true => simp [hm, mem_stations, and_assoc]
  | false => simp [hm, mem_stations, row_eq_clear_iff, and_assoc]

/-! ### Counters that the end of a reception leaves (R128, R137, R139) -/

/-- The counters of aborted contexts and of records that DLV discards (R128, R137, R139). -/
def countsLostReception : Counter → Bool
  | .rxGapAbort | .rxSenderAbort | .rxStaleAbort | .rxRemovalAbort | .steerDiscard | .queueOverflow0 | .queueOverflow1
  | .queueOverflow2 | .queueOverflow3 => true
  | _ => false

section
variable {k : Counter}

theorem countEvent_counter_of_ne {c : Counter} (h : k ≠ c) (s : State) :
    (countEvent c s).mgt.counters.get k = s.mgt.counters.get k := Counters.get_set_of_ne _ _ h

variable (hk : countsLostReception k = false)
include hk

theorem ne_of_countsLostReception {c : Counter} (hc : countsLostReception c = true) : k ≠ c := by
  rintro rfl
  exact absurd (hk.symm.trans hc) (by decide)

theorem handOff_counter (r : DeliveredRecord) (s : State) :
    (handOff r s).mgt.counters.get k = s.mgt.counters.get k := by
  have hover (q : Class) : countsLostReception (overflowCounter q) = true := by
    fin_cases q <;> rfl
  unfold handOff
  split
  · unfold offerRecord
    split
    · simp
    · rw [countEvent_counter_of_ne (ne_of_countsLostReception hk (hover _))]
      simp
  · rw [countEvent_counter_of_ne (ne_of_countsLostReception hk rfl)]
    simp

theorem abortContext_counter (w : AbortReason) (c : Context) (s : State) :
    (abortContext w c s).mgt.counters.get k = s.mgt.counters.get k := by
  have habort : countsLostReception (abortCounter w) = true := by
    cases w <;> rfl
  unfold abortContext
  extract_lets table counted
  have hcounted : counted.mgt.counters.get k = s.mgt.counters.get k :=
    countEvent_counter_of_ne (ne_of_countsLostReception hk habort) _
  split
  · rw [handOff_counter hk]
    simpa using hcounted
  · simpa using hcounted

theorem removeSources_counter (removed : List Station) (s : State) :
    (removeSources removed s).mgt.counters.get k = s.mgt.counters.get k := by
  have each (l : List Context) (u : State) :
      (l.foldl (fun s c => abortContext .removal c s) u).mgt.counters.get k = u.mgt.counters.get k := by
    induction l generalizing u with
    | nil => rfl
    | cons c l ih => rw [List.foldl_cons, ih, abortContext_counter hk]
  exact each _ _

end

/-! ### A loaded TABLE (R73) -/

section
variable (f : TableFrame) (s : State)

/-- The state with the TABLE's schedule state in place of its own, before the removal signals. -/
def tableWritten : State := { s with ssu := { s.ssu with sched := Sched.ofBytes f.body, digest := f.digest } }

/-- The stations that the TABLE removes (R73). -/
def tableRemoved : List Station := removedStations s.ssu.sched (Sched.ofBytes f.body)

theorem loadTable_ssu : (loadTable f s).ssu = ⟨Sched.ofBytes f.body, f.digest, s.ssu.tableOut⟩ := by
  simp [loadTable]

theorem loadTable_cyc : (loadTable f s).cyc =
    { s.cyc with
      pendingLoad := some (if ((Sched.ofBytes f.body).row (ownNumber s)).member then .member else .notMember) } := by
  simp [loadTable]

theorem loadTable_counters : (loadTable f s).mgt.counters =
    (countEvent .tablesLoaded (removeSources (tableRemoved f s) (tableWritten f s))).mgt.counters := rfl

theorem loadTable_tablesLoaded :
    (loadTable f s).mgt.counters.get .tablesLoaded = saturatingSucc (s.mgt.counters.get .tablesLoaded) := by
  rw [loadTable_counters, countEvent_counters, Counters.get_set_self, removeSources_counter rfl]
  rfl

theorem loadTable_damagedFrames :
    (loadTable f s).mgt.counters.get .damagedFrames = s.mgt.counters.get .damagedFrames := by
  rw [loadTable_counters, countEvent_counter_of_ne (by decide), removeSources_counter rfl]
  rfl

/-- The contexts of the sources that the TABLE removes are gone, and every other stays (R73, R130). -/
theorem mem_loadTable_contexts (c : Context) :
    c ∈ (loadTable f s).ras.contexts ↔
      c ∈ s.ras.contexts ∧
        ¬((s.ssu.sched.row c.src).member = true ∧ ((Sched.ofBytes f.body).row c.src).member = false) := by
  rw [← mem_removedStations]
  exact mem_removeSources_contexts (tableRemoved f s) (tableWritten f s) c

end

end Sys2Proof.Machine

open Sys2Proof Sys2Proof.Machine

/-- Settles O37: each station's row is its membership update, case by case, on the deficits that ALC dealt. -/
theorem commitUpdates : Obligations.CommitUpdates := by
  intro limit pointer t as d st after row dealt
  have hrow : after.row st = updateRow limit (t.record st.val).status row.member dealt :=
    committedSched_row limit t as pointer d st
  have hsilence : dealt.silence = row.silence := dealDeficits_silence as st row
  refine ⟨rfl, rfl, fun hs hm hlimit => ?_, fun hs hm hlimit => ?_, fun hs hm => ?_, fun b hb => ⟨fun hflag hm => ?_,
    fun hflag => ?_, fun hflag hm => ?_, fun hflag hm => ?_⟩⟩
  · rw [hrow, hs, hm, updateRow_silent_removed (hsilence ▸ hlimit)]
  · rw [hrow, hs, hm, updateRow_silent_kept (hsilence ▸ hlimit), hsilence]
  · rw [hrow, hs, hm]
    rfl
  · rw [hrow, hb, hm, updateRow_heard hflag]
  · rw [hrow, hb, updateRow_joining hflag]
  · rw [hrow, hb, hm, updateRow_leaving hflag]
  · rw [hrow, hb, hm, updateRow_outsider hflag]

/-- Settles O39: the states that load, the judgment of R72 spelled out, and what a load writes. -/
theorem tableTaken : Obligations.TableTaken := by
  intro f s after passes loads
  have hloads : s.cyc.state.loads = true ↔ loads := loads_iff s.cyc.state
  have hpasses : tablePasses s.mgt.profile f = true ↔ passes := by
    rw [tablePasses_iff, withinBounds_iff]
    simp only [passes, after, and_assoc]
  refine ⟨fun hl => if_neg (mt hloads.mp hl), fun hl hp => ?_, fun hl hp => ?_⟩
  · rw [takeTable, if_pos (hloads.mpr hl), if_neg (mt hpasses.mp hp)]
  · have htaken : takeTable f s = loadTable f s := by
      rw [takeTable, if_pos (hloads.mpr hl), if_pos (hpasses.mpr hp)]
    simp only [htaken, loadTable_ssu]
    exact ⟨rfl, trivial, trivial, loadTable_cyc f s, loadTable_tablesLoaded f s, loadTable_damagedFrames f s,
      mem_loadTable_contexts f s, by simp⟩

/-- Settles O55: each item is read from its bytes, and the bytes from the items. -/
theorem scheduleRoundTrip : Obligations.ScheduleRoundTrip := by
  refine ⟨fun d hlength hpointer hrows => ?_, fun body => serialise_ofBytes⟩
  refine ⟨serialise_length d, ofBytes_serialise hlength hpointer hrows, Sched.digest_eq d, ?_⟩
  intro b number
  refine ⟨halfOf_hiByte_loByte d.cycle, toNat_natByte hpointer, fun k => ?_⟩
  obtain ⟨hs, h1, h2, h3⟩ := hrows _ (row_mem_rows hlength k)
  have hmembers : number (b 3) (b 4) = d.memberBits := halfOf_hiByte_loByte d.memberBits
  have hd2 : b (21 + 3 * k.val + 1) = natByte (d.row k).d2 := by
    rw [← serialise_d2, show 22 + 3 * k.val = 21 + 3 * k.val + 1 by omega]
  have hd3 : b (21 + 3 * k.val + 2) = natByte (d.row k).d3 := by
    rw [← serialise_d3, show 23 + 3 * k.val = 21 + 3 * k.val + 2 by omega]
  refine ⟨by rw [hmembers, memberBits_getLsbD], ?_, ?_, by rw [hd2, toNat_natByte h2], by rw [hd3, toNat_natByte h3]⟩
  · exact (congrArg BitVec.toNat (serialise_silence d k)).trans (toNat_natByte hs)
  · exact (congrArg BitVec.toNat (serialise_d1 d k)).trans (toNat_natByte h1)
end

section
/-! SUPPORT. The laws of the device right after power-on: empty pools, queues and tables, and a station in CONFIG. -/

namespace Sys2Proof.Machine

theorem capacityLaw_reset : CapacityLaw State.reset := by
  have hqueues (c : Class) : State.reset.txq.queues.get c = [] := Four.get_all _ c
  have hrecords (q : Class) : State.reset.dlv.queues.get q = [] := Four.get_all _ q
  refine ⟨fun c => ?_, by decide, fun q => ?_, by decide, by decide, rfl⟩
  · rw [hqueues]
    exact Nat.zero_le _
  · rw [hrecords]
    exact Nat.zero_le _

/-- After power-on no session runs, and nothing of one is held (R12, R24). -/
theorem sessionOver_reset : SessionOver State.reset :=
  ⟨rfl, by decide, fun _ => ⟨fun c => Four.get_all _ c, by decide⟩⟩

theorem scheduleLaw_reset : ScheduleLaw State.reset :=
  (scheduleLaw_iff _).mpr ⟨tablesLaw_of_inactive sessionOver_reset.law.2 rfl, digestLaw_reset⟩

theorem classQueueLaw_reset : ClassQueueLaw State.reset := by
  have hqueues (c : Class) : State.reset.txq.queues.get c = [] := Four.get_all _ c
  refine ⟨fun c => ?_, ⟨fun c => ?_, by decide, fun e n => ?_⟩, fun e n h => ?_⟩
  · rw [hqueues]
    exact ⟨by simp, by simp, by simp⟩
  · rw [hqueues]
    simp [noArriving]
  · exact Parser.noConfusion
  · exact absurd h Parser.noConfusion

theorem contextLaw_reset : ContextLaw State.reset :=
  ⟨.nil, fun _ h => absurd h List.not_mem_nil⟩

end Sys2Proof.Machine

open Sys2Proof Sys2Proof.Machine

/-- Settles O4: the pools are full, every queue and table is empty, and CONFIG asks nothing of the profile. -/
theorem deviceLawsAtReset : Obligations.DeviceLawsAtReset :=
  ⟨rfl, rfl, capacityLaw_reset, sessionOver_reset.law.1, sessionOver_reset.law.2, fun h => absurd rfl h,
    scheduleLaw_reset, classQueueLaw_reset, contextLaw_reset⟩
end

section
/-! SUPPORT. ALC's passes (R80 to R87): the walk that the Express, shared and fill passes have in common, the step of each
at one station, and the deficit add and reset class by class. -/

namespace Sys2Proof.Machine

/-- The shared classes are 1, 2 and 3 (00_scope, Conventions). -/
theorem shared_class_cases {c : Class} (h : c ≠ 0) : c = 1 ∨ c = 2 ∨ c = 3 := by
  revert c; decide

/-! ### A walk over the accounts -/

/-- A walk that hands the slots left at each account on to the next (R82, R84, R85): the accounts after their steps, and
the slots left over. -/
def walkAccounts (step : Account × Nat → Account × Nat) : Nat → List Account → List Account × Nat
  | r, [] => ([], r)
  | r, a :: rest =>
    let p := step (a, r)
    let q := walkAccounts step p.2 rest
    (p.1 :: q.1, q.2)

section
variable {step : Account × Nat → Account × Nat}

/-- What the step establishes of every account, the walk establishes of all. -/
theorem walkAccounts_forall {P Q : Account → Prop} (h : ∀ a r, P a → Q (step (a, r)).1) (r : Nat) (as : List Account)
    (has : ∀ a ∈ as, P a) : ∀ a ∈ (walkAccounts step r as).1, Q a := by
  induction as generalizing r with
  | nil => exact List.forall_mem_nil _
  | cons a as ih =>
    rw [List.forall_mem_cons] at has
    rw [walkAccounts, List.forall_mem_cons]
    exact ⟨h a r has.1, ih _ has.2⟩

/-- What the step leaves of every account, the walk leaves of all, in order. -/
theorem walkAccounts_map {β : Type} {g : Account → β} (h : ∀ a r, g (step (a, r)).1 = g a) (r : Nat)
    (as : List Account) : (walkAccounts step r as).1.map g = as.map g := by
  induction as generalizing r with
  | nil => rfl
  | cons a as ih => rw [walkAccounts, List.map_cons, List.map_cons, h, ih]

/-- Where every step pays from the slots left what it adds to the account, so does the walk. -/
theorem walkAccounts_conserves {before after : Account → Nat}
    (h : ∀ a r, after (step (a, r)).1 + (step (a, r)).2 = before a + r) (r : Nat) (as : List Account) :
    ((walkAccounts step r as).1.map after).sum + (walkAccounts step r as).2 = (as.map before).sum + r := by
  induction as generalizing r with
  | nil => rfl
  | cons a as ih =>
    have hstep := h a r
    have hrest := ih (step (a, r)).2
    simp only [walkAccounts, List.map_cons, List.sum_cons]
    omega

/-- Where every step pays for all that it leaves in the account, so does the walk. -/
theorem walkAccounts_pays {after : Account → Nat} (h : ∀ a r, after (step (a, r)).1 + (step (a, r)).2 = r) (r : Nat)
    (as : List Account) : ((walkAccounts step r as).1.map after).sum + (walkAccounts step r as).2 = r := by
  have hsum := walkAccounts_conserves (before := fun _ => 0) (fun a r => (h a r).trans (Nat.zero_add r).symm) r as
  simpa using hsum

/-- With no slot left at the start, each account takes the step that has none to give. -/
theorem walkAccounts_zero {spent : Account → Account} (h : ∀ a, step (a, 0) = (spent a, 0)) (as : List Account) :
    walkAccounts step 0 as = (as.map spent, 0) := by
  induction as with
  | nil => rfl
  | cons a as ih => simp only [walkAccounts, h, ih, List.map_cons]

end

/-! ### The Express pass (R82) -/

/-- The Express pass at one station with allowance `p.2` (R82). -/
def expressStation (p : Account × Nat) : Account × Nat :=
  ({ p.1 with granted := p.1.granted.set 0 (min p.1.demand.c0 p.2) }, p.2 - min p.1.demand.c0 p.2)

theorem expressPass_eq_walk (x : Nat) (as : List Account) : expressPass x as = (walkAccounts expressStation x as).1 := by
  induction as generalizing x with
  | nil => rfl
  | cons a as ih => rw [expressPass, ih, walkAccounts, expressStation]

/-- What the Express pass grants a station it takes from the allowance (R82). -/
theorem expressStation_conserves (a : Account) (x : Nat) :
    (expressStation (a, x)).1.granted.c0 + (expressStation (a, x)).2 = x := by
  show min a.demand.c0 x + (x - min a.demand.c0 x) = x
  omega

/-- The Express grants take no more than the allowance (R82). -/
theorem expressTotal_expressPass_le (x : Nat) (as : List Account) : expressTotal (expressPass x as) ≤ x := by
  have hpaid := walkAccounts_pays (after := fun a => a.granted.c0) expressStation_conserves x as
  rw [expressPass_eq_walk]
  exact Nat.le.intro hpaid

/-! ### The deficit add and the deficit reset (R83, R86) -/

section
variable (quantum : Class → Nat) (c : Class) (a : Account)

@[simp] theorem addDeficit_station : (addDeficit quantum c a).station = a.station := by
  unfold addDeficit; split <;> rfl

@[simp] theorem addDeficit_demand : (addDeficit quantum c a).demand = a.demand := by
  unfold addDeficit; split <;> rfl

@[simp] theorem addDeficit_granted : (addDeficit quantum c a).granted = a.granted := by
  unfold addDeficit; split <;> rfl

@[simp] theorem addDeficit_unmet : (addDeficit quantum c a).unmet = a.unmet := by
  unfold addDeficit; split <;> rfl

theorem addDeficit_deficit (e : Class) : (addDeficit quantum c a).deficit.get e =
    if e = c ∧ 0 < a.demand.get e then min (a.deficit.get e + quantum e) (4 * quantum e) else a.deficit.get e := by
  by_cases he : e = c
  · subst he
    unfold addDeficit
    split <;> simp [*]
  · unfold addDeficit
    split <;> simp [he, Four.get_set_of_ne]

@[simp] theorem deficitAdd_station : (deficitAdd quantum a).station = a.station := by simp [deficitAdd]
@[simp] theorem deficitAdd_demand : (deficitAdd quantum a).demand = a.demand := by simp [deficitAdd]
@[simp] theorem deficitAdd_granted : (deficitAdd quantum a).granted = a.granted := by simp [deficitAdd]
@[simp] theorem deficitAdd_unmet : (deficitAdd quantum a).unmet = a.unmet := by simp [deficitAdd]

variable {c}

/-- Each shared class gets its own add, and those of the other two do not reach it (R83). -/
theorem deficitAdd_deficit (h : c ≠ 0) : (deficitAdd quantum a).deficit.get c =
    if 0 < a.demand.get c then min (a.deficit.get c + quantum c) (4 * quantum c) else a.deficit.get c := by
  obtain rfl | rfl | rfl := shared_class_cases h <;> simp [deficitAdd, addDeficit_deficit]

end

section
variable (c : Class) (a : Account)

@[simp] theorem resetDeficit_station : (resetDeficit c a).station = a.station := by
  unfold resetDeficit; split <;> rfl

@[simp] theorem resetDeficit_demand : (resetDeficit c a).demand = a.demand := by
  unfold resetDeficit; split <;> rfl

@[simp] theorem resetDeficit_granted : (resetDeficit c a).granted = a.granted := by
  unfold resetDeficit; split <;> rfl

theorem resetDeficit_deficit (e : Class) : (resetDeficit c a).deficit.get e =
    if e = c ∧ a.granted.get e = a.demand.get e then 0 else a.deficit.get e := by
  by_cases he : e = c
  · subst he
    unfold resetDeficit
    split <;> simp [*]
  · unfold resetDeficit
    split <;> simp [he, Four.get_set_of_ne]

@[simp] theorem deficitReset_station : (deficitReset a).station = a.station := by simp [deficitReset]
@[simp] theorem deficitReset_demand : (deficitReset a).demand = a.demand := by simp [deficitReset]
@[simp] theorem deficitReset_granted : (deficitReset a).granted = a.granted := by simp [deficitReset]

variable {c}

/-- Each shared class gets its own reset, and those of the other two do not reach it (R86). -/
theorem deficitReset_deficit (h : c ≠ 0) : (deficitReset a).deficit.get c =
    if a.granted.get c = a.demand.get c then 0 else a.deficit.get c := by
  obtain rfl | rfl | rfl := shared_class_cases h <;> simp [deficitReset, resetDeficit_deficit]

end

/-- A station outside E keeps its deficits (R66, R86). -/
theorem dealDeficits_of_not_mem {as : List Account} {st : Station} (row : SchedRow) (h : ∀ a ∈ as, a.station ≠ st) :
    dealDeficits as st row = row := by
  have hnone : as.find? (fun a => a.station == st) = none := by simpa using h
  rw [dealDeficits, hnone]

/-! ### The shared pass (R84) -/

/-- The shared pass at one station with budget `p.2`, class by class (R84). -/
def shareStation (p : Account × Nat) : Account × Nat := shareOne 3 (shareOne 2 (shareOne 1 p))

theorem sharedPass_eq_walk (r : Nat) (as : List Account) : sharedPass r as = walkAccounts shareStation r as := by
  induction as generalizing r with
  | nil => rfl
  | cons a as ih => rw [sharedPass, ih, walkAccounts, shareStation]

/-- The shared pass at one station written out: class 1 is served before class 2, and class 2 before class 3. -/
theorem shareStation_eq (a : Account) (r : Nat) :
    let g1 := min (min a.demand.c1 a.deficit.c1) r
    let g2 := min (min a.demand.c2 a.deficit.c2) (r - g1)
    let g3 := min (min a.demand.c3 a.deficit.c3) (r - g1 - g2)
    shareStation (a, r) =
      ({ a with
          deficit := ⟨a.deficit.c0, a.deficit.c1 - g1, a.deficit.c2 - g2, a.deficit.c3 - g3⟩,
          granted := ⟨a.granted.c0, g1, g2, g3⟩,
          unmet := ⟨a.unmet.c0, a.demand.c1 - g1, a.demand.c2 - g2, a.demand.c3 - g3⟩ }, r - g1 - g2 - g3) := rfl

/-- The slots an account was granted in the shared classes. -/
def sharedSlots (a : Account) : Nat := a.granted.c1 + a.granted.c2 + a.granted.c3

/-- What the shared pass grants a station it takes from the budget (R84). -/
theorem shareStation_conserves (a : Account) (r : Nat) :
    sharedSlots (shareStation (a, r)).1 + (shareStation (a, r)).2 = r := by
  simp only [shareStation_eq, sharedSlots]
  omega

/-- The shared pass credits no class (R84). -/
theorem shareStation_deficit_le (a : Account) (r : Nat) (c : Class) :
    (shareStation (a, r)).1.deficit.get c ≤ a.deficit.get c := by
  rw [shareStation_eq]
  fin_cases c <;> simp [Four.get]

/-- An account that the shared pass leaves where no budget is left (R84). -/
def unshared (a : Account) : Account :=
  { a with
    granted := ⟨a.granted.c0, 0, 0, 0⟩,
    unmet := ⟨a.unmet.c0, a.demand.c1, a.demand.c2, a.demand.c3⟩ }

theorem shareStation_zero (a : Account) : shareStation (a, 0) = (unshared a, 0) := by
  simp [shareStation_eq, unshared]

theorem sharedPass_zero (as : List Account) : sharedPass 0 as = (as.map unshared, 0) := by
  rw [sharedPass_eq_walk, walkAccounts_zero shareStation_zero]

/-! ### The fill pass (R85) -/

/-- The fill pass at one station with budget `p.2`, class by class (R85). -/
def fillStation (p : Account × Nat) : Account × Nat := fillOne 3 (fillOne 2 (fillOne 1 p))

theorem fillPass_eq_walk (r : Nat) (as : List Account) : fillPass r as = walkAccounts fillStation r as := by
  induction as generalizing r with
  | nil => rfl
  | cons a as ih => rw [fillPass, ih, walkAccounts, fillStation]

/-- The fill pass at one station written out: class 1 is served before class 2, and class 2 before class 3. -/
theorem fillStation_eq (a : Account) (r : Nat) :
    let f1 := min a.unmet.c1 r
    let f2 := min a.unmet.c2 (r - f1)
    let f3 := min a.unmet.c3 (r - f1 - f2)
    fillStation (a, r) =
      ({ a with
          granted := ⟨a.granted.c0, a.granted.c1 + f1, a.granted.c2 + f2, a.granted.c3 + f3⟩,
          unmet := ⟨a.unmet.c0, a.unmet.c1 - f1, a.unmet.c2 - f2, a.unmet.c3 - f3⟩ }, r - f1 - f2 - f3) := rfl

/-- What the fill pass grants a station it takes from the budget (R85). -/
theorem fillStation_conserves (a : Account) (r : Nat) :
    sharedSlots (fillStation (a, r)).1 + (fillStation (a, r)).2 = sharedSlots a + r := by
  simp only [fillStation_eq, sharedSlots]
  omega

/-! ### Grants against demands -/

/-- No class has more slots than it asked for, and what a shared class lacks is its unmet demand (R82, R84, R85). -/
structure Account.Balanced (a : Account) : Prop where
  c0 : a.granted.c0 ≤ a.demand.c0
  c1 : a.granted.c1 + a.unmet.c1 = a.demand.c1
  c2 : a.granted.c2 + a.unmet.c2 = a.demand.c2
  c3 : a.granted.c3 + a.unmet.c3 = a.demand.c3

theorem Account.Balanced.granted_le {a : Account} (h : a.Balanced) (c : Class) :
    a.granted.get c ≤ a.demand.get c := by
  obtain ⟨h0, h1, h2, h3⟩ := h
  fin_cases c
  · exact h0
  · exact Nat.le.intro h1
  · exact Nat.le.intro h2
  · exact Nat.le.intro h3

theorem expressStation_granted_le (a : Account) (x : Nat) :
    (expressStation (a, x)).1.granted.c0 ≤ (expressStation (a, x)).1.demand.c0 := Nat.min_le_left _ _

theorem shareStation_balanced (a : Account) (r : Nat) (h : a.granted.c0 ≤ a.demand.c0) :
    (shareStation (a, r)).1.Balanced := by
  rw [shareStation_eq]
  constructor <;> dsimp only <;> omega

theorem fillStation_balanced (a : Account) (r : Nat) (h : a.Balanced) : (fillStation (a, r)).1.Balanced := by
  obtain ⟨h0, h1, h2, h3⟩ := h
  rw [fillStation_eq]
  constructor <;> dsimp only <;> omega

/-! ### The passes in their order -/

/-- The accounts after the Express pass (R82). -/
def expressedAccounts (p : Profile) (placed : Bool) (as : List Account) : List Account :=
  expressPass (min p.cap (startBudget p.budget placed)) as

/-- The accounts after the shared pass, and the budget it leaves (R83, R84). -/
def sharedAccounts (p : Profile) (placed : Bool) (as : List Account) : List Account × Nat :=
  sharedPass (startBudget p.budget placed - expressTotal (expressedAccounts p placed as))
    ((expressedAccounts p placed as).map (deficitAdd p.quantum))

section
variable (p : Profile) (placed : Bool) (as : List Account)

theorem settleAccounts_eq : settleAccounts p placed as =
    (fillPass (sharedAccounts p placed as).2 (sharedAccounts p placed as).1).1.map deficitReset := rfl

/-- What no shared step, fill step, add or reset changes of an account is as the Express pass left it. -/
theorem settleAccounts_map {β : Type} {g : Account → β} (hadd : ∀ a, g (deficitAdd p.quantum a) = g a)
    (hshare : ∀ a r, g (shareStation (a, r)).1 = g a) (hfill : ∀ a r, g (fillStation (a, r)).1 = g a)
    (hreset : ∀ a, g (deficitReset a) = g a) :
    (settleAccounts p placed as).map g = (expressedAccounts p placed as).map g := by
  calc (settleAccounts p placed as).map g
    _ = (walkAccounts fillStation (sharedAccounts p placed as).2 (sharedAccounts p placed as).1).1.map g := by
      simp [settleAccounts_eq, fillPass_eq_walk, Function.comp_def, hreset]
    _ = (sharedAccounts p placed as).1.map g := walkAccounts_map hfill _ _
    _ = ((expressedAccounts p placed as).map (deficitAdd p.quantum)).map g := by
      rw [sharedAccounts, sharedPass_eq_walk, walkAccounts_map hshare]
    _ = (expressedAccounts p placed as).map g := by simp [Function.comp_def, hadd]

/-- No pass changes the stations of the accounts, their order, or their demands. -/
theorem settleAccounts_demands :
    (settleAccounts p placed as).map (fun a => (a.station, a.demand)) = as.map (fun a => (a.station, a.demand)) := by
  rw [settleAccounts_map _ _ _ (fun a => by simp) (fun _ _ => rfl) (fun _ _ => rfl) (fun a => by simp),
    expressedAccounts, expressPass_eq_walk]
  exact walkAccounts_map (fun _ _ => rfl) _ _

/-- Every grant is at most the demand (R88). -/
theorem settleAccounts_granted_le : ∀ a ∈ settleAccounts p placed as, ∀ c, a.granted.get c ≤ a.demand.get c := by
  have hexpress : ∀ a ∈ expressedAccounts p placed as, a.granted.c0 ≤ a.demand.c0 := by
    rw [expressedAccounts, expressPass_eq_walk]
    exact walkAccounts_forall (P := fun _ => True) (fun a x _ => expressStation_granted_le a x) _ _ (fun _ _ => trivial)
  have hshared : ∀ a ∈ (sharedAccounts p placed as).1, a.Balanced := by
    rw [sharedAccounts, sharedPass_eq_walk]
    exact walkAccounts_forall shareStation_balanced _ _ (List.forall_mem_map.mpr (by simpa using hexpress))
  have hfill := walkAccounts_forall fillStation_balanced (sharedAccounts p placed as).2 _ hshared
  rw [settleAccounts_eq, fillPass_eq_walk, List.forall_mem_map]
  intro a ha c
  rw [deficitReset_granted, deficitReset_demand]
  exact (hfill a ha).granted_le c

/-- The shared and the fill pass do not touch the Express grants (R84, R85). -/
theorem expressTotal_settleAccounts :
    expressTotal (settleAccounts p placed as) = expressTotal (expressedAccounts p placed as) := by
  exact congrArg List.sum
    (settleAccounts_map _ _ _ (fun a => by simp) (fun _ _ => rfl) (fun _ _ => rfl) (fun a => by simp))

/-- The passes together give out no more than the starting budget (R80, R88). -/
theorem settleAccounts_slots_le :
    expressTotal (settleAccounts p placed as) + ((settleAccounts p placed as).map sharedSlots).sum ≤
      startBudget p.budget placed := by
  have hexpress : expressTotal (expressedAccounts p placed as) ≤ startBudget p.budget placed :=
    (expressTotal_expressPass_le _ as).trans (Nat.min_le_right _ _)
  have hshared : ((sharedAccounts p placed as).1.map sharedSlots).sum + (sharedAccounts p placed as).2 =
      startBudget p.budget placed - expressTotal (expressedAccounts p placed as) := by
    rw [sharedAccounts, sharedPass_eq_walk]
    exact walkAccounts_pays shareStation_conserves _ _
  have hfill := walkAccounts_conserves fillStation_conserves (sharedAccounts p placed as).2 (sharedAccounts p placed as).1
  have hreset : (settleAccounts p placed as).map sharedSlots =
      (walkAccounts fillStation (sharedAccounts p placed as).2 (sharedAccounts p placed as).1).1.map sharedSlots := by
    simp [settleAccounts_eq, fillPass_eq_walk, Function.comp_def, sharedSlots]
  rw [expressTotal_settleAccounts, hreset]
  omega

end

end Sys2Proof.Machine

open Sys2Proof Sys2Proof.Machine

/-- Settles O42: the add and the reset class by class, their place in the order of the passes, and the rows outside E. -/
theorem deficitAddAndReset : Obligations.DeficitAddAndReset := by
  refine ⟨fun q a => ⟨fun c hc => deficitAdd_deficit q a hc, ?_⟩, fun a => ⟨fun c hc => deficitReset_deficit a hc, ?_⟩,
    fun p placed as => settleAccounts_eq p placed as, fun as st row h => dealDeficits_of_not_mem row h⟩
  · simp
  · simp

/-- Settles O43: both passes station by station, the cap that the shared pass keeps, and the pass with no budget. -/
theorem sharedAndFillPasses : Obligations.SharedAndFillPasses := by
  refine ⟨fun r a rest => ?_, fun r => rfl, fun r a rest => ?_, fun r => rfl, fun q r as has => ?_, fun as => ?_,
    fun as => ?_⟩
  · simp only [sharedPass_eq_walk]
    rw [walkAccounts, shareStation_eq]
  · simp only [fillPass_eq_walk]
    rw [walkAccounts, fillStation_eq]
  · rw [sharedPass_eq_walk]
    exact walkAccounts_forall (fun a r h c hc => (shareStation_deficit_le a r c).trans (h c hc)) r as has
  · simp [sharedPass_zero, unshared]
  · rw [sharedPass_zero, List.forall_mem_map]
    intro a _ c hc
    obtain rfl | rfl | rfl := shared_class_cases hc <;> exact ⟨rfl, rfl⟩
end

section
/-! SUPPORT. The rotation order, the accounts opened in it, and the grant list made of them (R79, R81, R88, R89). -/

namespace Sys2Proof.Machine

/-! ### The rotation order (R81) -/

/-- Station `s` stands before station `t` in a rotation that starts at `pointer`: it comes in the first round and `t` after
the wrap, or both come in the same round and `s` is the lower (R81). -/
def RotationBefore (pointer : Nat) (s t : Station) : Prop :=
  (pointer ≤ s.val ∧ t.val < pointer) ∨ (s.val < t.val ∧ (pointer ≤ s.val ↔ pointer ≤ t.val))

section
variable (eligible : List Station) (pointer : Nat)

/-- Each station of E appears in the order as often as in E (R81). -/
theorem rotationOrder_perm : (rotationOrder eligible pointer).Perm eligible := by
  have hwrapped : (fun s : Station => decide (s.val < pointer)) = fun s => !decide (pointer ≤ s.val) := by
    simp only [← decide_not, Nat.not_le]
  rw [rotationOrder, hwrapped]
  exact List.filter_append_perm _ _

theorem rotationOrder_pairwise {eligible : List Station} (h : eligible.Pairwise (fun s t => s.val < t.val)) :
    (rotationOrder eligible pointer).Pairwise (RotationBefore pointer) := by
  refine List.pairwise_append.mpr ⟨?_, ?_, ?_⟩
  · exact List.pairwise_filter.mpr (h.imp fun hlt hs ht =>
      .inr ⟨hlt, iff_of_true (of_decide_eq_true hs) (of_decide_eq_true ht)⟩)
  · exact List.pairwise_filter.mpr (h.imp fun hlt hs ht =>
      .inr ⟨hlt, iff_of_false (Nat.not_le.mpr (of_decide_eq_true hs)) (Nat.not_le.mpr (of_decide_eq_true ht))⟩)
  · intro s hs t ht
    exact .inl ⟨by simpa using (List.mem_filter.mp hs).2, by simpa using (List.mem_filter.mp ht).2⟩

theorem rotationOrder_nodup {eligible : List Station} (h : eligible.Pairwise (fun s t => s.val < t.val)) :
    (rotationOrder eligible pointer).Nodup :=
  (rotationOrder_perm eligible pointer).nodup_iff.mpr (h.imp fun hlt heq => by simp [heq] at hlt)

end

/-! ### The accounts of a cycle (R79) -/

/-- The record is that of a Valid bid (R47). -/
def BidStatus.isValid : BidStatus → Bool
  | .valid _ => true
  | .unheard => false
  | .silent => false
  | .damaged => false

section
variable (o : Announcement) (t : BidTable) (d : Sched)

theorem openAccounts_stations : (openAccounts o t d).map Account.station =
    (rotationOrder o.eligible d.pointer).filter (fun st => (t.record st.val).status.isValid) := by
  unfold openAccounts
  induction rotationOrder o.eligible d.pointer with
  | nil => rfl
  | cons st rest ih =>
    rw [List.filterMap_cons, List.filter_cons]
    cases (t.record st.val).status with
    | valid b => exact congrArg (st :: ·) ih
    | unheard => exact ih
    | silent => exact ih
    | damaged => exact ih

/-- An account belongs to a station of E and has the demands of its bid (R79). -/
theorem demand_of_mem_openAccounts {a : Account} (h : a ∈ openAccounts o t d) :
    a.station ∈ o.eligible ∧ ∃ b, (t.record a.station.val).status = .valid b ∧ a.demand = b.demand := by
  obtain ⟨st, hst, hopen⟩ := List.mem_filterMap.mp h
  split at hopen <;> cases hopen
  exact ⟨(rotationOrder_perm _ _).mem_iff.mp hst, _, ‹_›, rfl⟩

variable (p : Profile) (placed : Bool)

theorem settledAccounts_stations : (settleAccounts p placed (openAccounts o t d)).map Account.station =
    (rotationOrder o.eligible d.pointer).filter (fun st => (t.record st.val).status.isValid) := by
  rw [← openAccounts_stations]
  simpa [Function.comp_def] using congrArg (List.map Prod.fst) (settleAccounts_demands p placed (openAccounts o t d))

/-- A settled account belongs to a station of E and was granted at most what its bid asked for (R88). -/
theorem granted_of_mem_settledAccounts {a : Account} (h : a ∈ settleAccounts p placed (openAccounts o t d)) :
    a.station ∈ o.eligible ∧
      ∃ b, (t.record a.station.val).status = .valid b ∧ ∀ c, a.granted.get c ≤ b.demand.get c := by
  have hkept := List.mem_map_of_mem (f := fun a : Account => (a.station, a.demand)) h
  rw [settleAccounts_demands] at hkept
  obtain ⟨opened, hopened, heq⟩ := List.mem_map.mp hkept
  obtain ⟨hstation, hdemand⟩ := Prod.mk.inj heq
  obtain ⟨hmem, b, hb, hbid⟩ := demand_of_mem_openAccounts o t d hopened
  rw [hstation] at hmem hb
  exact ⟨hmem, b, hb, fun c => (settleAccounts_granted_le p placed _ a h c).trans_eq (by rw [← hdemand, hbid])⟩

theorem settledAccounts_nodup (h : o.eligible.Pairwise (fun s t => s.val < t.val)) :
    ((settleAccounts p placed (openAccounts o t d)).map Account.station).Nodup := by
  rw [settledAccounts_stations]
  exact (rotationOrder_nodup _ h).filter _

end

/-! ### The entries of one account (R88) -/

/-- The four classes of an account with their totals, in class order. -/
def classTotals (a : Account) : List (Station × Class × Nat) :=
  [(a.station, 0, a.granted.c0), (a.station, 1, a.granted.c1), (a.station, 2, a.granted.c2), (a.station, 3, a.granted.c3)]

/-- The classes with slots, each under the station's number. -/
theorem filterMap_granted (st : Station) (totals : List (Class × Nat)) :
    totals.filterMap (fun e => if 0 < e.2 then some (st, e.1, e.2) else none) =
      (totals.map (Prod.mk st)).filter (fun e => decide (0 < e.2.2)) := by
  induction totals with
  | nil => rfl
  | cons e totals ih => by_cases h : 0 < e.2 <;> simp [h, ih]

theorem accountEntries_eq (a : Account) : accountEntries a = (classTotals a).filter (fun e => decide (0 < e.2.2)) :=
  filterMap_granted a.station _

theorem mem_accountEntries {a : Account} {e : Station × Class × Nat} (h : e ∈ accountEntries a) :
    e.1 = a.station ∧ e.2.2 = a.granted.get e.2.1 ∧ 0 < e.2.2 := by
  rw [accountEntries_eq, List.mem_filter] at h
  obtain ⟨hmem, hpos⟩ := h
  simp only [classTotals, List.mem_cons, List.not_mem_nil, or_false] at hmem
  obtain rfl | rfl | rfl | rfl := hmem <;> exact ⟨rfl, rfl, of_decide_eq_true hpos⟩

theorem accountEntries_pairwise (a : Account) :
    (accountEntries a).Pairwise (fun e f => ¬(e.1 = f.1 ∧ e.2.1 = f.2.1)) := by
  rw [accountEntries_eq]
  exact List.Pairwise.filter _ (by simp [classTotals])

/-- Entries without slots count for nothing. -/
theorem sum_filter_pos {α : Type} (f : α → Nat) (l : List α) :
    ((l.filter (fun e => decide (0 < f e))).map f).sum = (l.map f).sum := by
  induction l with
  | nil => rfl
  | cons e l ih =>
    by_cases h : 0 < f e
    · simp [h, ih]
    · simp [Nat.eq_zero_of_not_pos h, ih]

theorem accountEntries_slots (a : Account) :
    ((accountEntries a).map (fun e => e.2.2)).sum = a.granted.c0 + sharedSlots a := by
  rw [accountEntries_eq, sum_filter_pos]
  simp only [classTotals, sharedSlots, List.map_cons, List.map_nil, List.sum_cons, List.sum_nil]
  omega

/-! ### The entries of the cycle (R88, R89) -/

theorem flatMap_accountEntries_slots (as : List Account) :
    ((as.flatMap accountEntries).map (fun e => e.2.2)).sum = expressTotal as + (as.map sharedSlots).sum := by
  induction as with
  | nil => rfl
  | cons a as ih =>
    rw [List.flatMap_cons, List.map_append, List.sum_append, accountEntries_slots, ih]
    simp only [expressTotal, List.map_cons, List.sum_cons]
    omega

/-- With one account for each station, no class of a station has two entries (R88). -/
theorem flatMap_accountEntries_pairwise {as : List Account} (h : (as.map Account.station).Nodup) :
    (as.flatMap accountEntries).Pairwise (fun e f => ¬(e.1 = f.1 ∧ e.2.1 = f.2.1)) := by
  refine List.pairwise_flatMap.mpr ⟨fun a _ => accountEntries_pairwise a, ?_⟩
  refine (List.pairwise_map.mp h).imp fun hne e he f hf hsame => hne ?_
  rw [← (mem_accountEntries he).1, ← (mem_accountEntries hf).1]
  exact hsame.1

/-- An entry without its first slot. -/
def Grant.unplaced (e : Grant) : Station × Class × Nat := (e.station, e.cls, e.count)

theorem numberEntries_unplaced (first : Nat) (es : List (Station × Class × Nat)) :
    (numberEntries first es).map Grant.unplaced = es := by
  induction es generalizing first with
  | nil => rfl
  | cons e es ih => rw [numberEntries, List.map_cons, ih, Grant.unplaced]

/-- Each entry begins where the entries before it end (R89). -/
theorem first_of_numberEntries {base : Nat} {es : List (Station × Class × Nat)} {pre post : List Grant} {e : Grant}
    (h : numberEntries base es = pre ++ e :: post) : e.first = base + (pre.map Grant.count).sum := by
  induction es generalizing base pre with
  | nil => simp [numberEntries] at h
  | cons x es ih =>
    rw [numberEntries] at h
    cases pre with
    | nil =>
      obtain ⟨rfl, -⟩ := List.cons.inj h
      rfl
    | cons y pre =>
      obtain ⟨rfl, hrest⟩ := List.cons.inj h
      rw [ih hrest, List.map_cons, List.sum_cons, Nat.add_assoc]

/-- The first data slot that grants may take (R89). -/
def firstGrantSlot (placed : Bool) : Nat := if placed then 4 else 0

section
variable (placed : Bool) (as : List Account)

theorem grantListOf_eq : grantListOf placed as =
    ⟨numberEntries (firstGrantSlot placed) (as.flatMap accountEntries), placed,
      firstGrantSlot placed + slotsGranted (numberEntries (firstGrantSlot placed) (as.flatMap accountEntries))⟩ := rfl

theorem grantListOf_unplaced : (grantListOf placed as).entries.map Grant.unplaced = as.flatMap accountEntries :=
  numberEntries_unplaced _ _

theorem grantListOf_total : (grantListOf placed as).total =
    firstGrantSlot placed + ((grantListOf placed as).entries.map Grant.count).sum := rfl

theorem grantListOf_slots : ((grantListOf placed as).entries.map Grant.count).sum =
    expressTotal as + (as.map sharedSlots).sum := by
  rw [← flatMap_accountEntries_slots, ← grantListOf_unplaced placed as, List.map_map]
  rfl

theorem mem_grantListOf {e : Grant} (h : e ∈ (grantListOf placed as).entries) :
    ∃ a ∈ as, e.station = a.station ∧ e.count = a.granted.get e.cls ∧ 0 < e.count := by
  have hentry := List.mem_map_of_mem (f := Grant.unplaced) h
  rw [grantListOf_unplaced] at hentry
  obtain ⟨a, ha, he⟩ := List.mem_flatMap.mp hentry
  exact ⟨a, ha, mem_accountEntries he⟩

theorem grantListOf_pairwise (h : (as.map Account.station).Nodup) :
    (grantListOf placed as).entries.Pairwise (fun e f => ¬(e.station = f.station ∧ e.cls = f.cls)) := by
  have hentries := flatMap_accountEntries_pairwise h
  rw [← grantListOf_unplaced placed as] at hentries
  exact List.pairwise_map.mp hentries

end

/-- The table block and the starting budget fill the data phase (R80). -/
theorem firstGrantSlot_add_startBudget {b : Nat} (h : 8 ≤ b) (placed : Bool) :
    firstGrantSlot placed + startBudget b placed = b := by
  cases placed with
  | false => exact Nat.zero_add b
  | true =>
    show 4 + (b - 4) = b
    omega

/-- The data phase is no longer than the budget (R89). -/
theorem grantListOf_total_le {p : Profile} (hbudget : 8 ≤ p.budget) (placed : Bool) (as : List Account) :
    (grantListOf placed (settleAccounts p placed as)).total ≤ p.budget := by
  rw [grantListOf_total, grantListOf_slots, ← firstGrantSlot_add_startBudget hbudget placed]
  exact Nat.add_le_add_left (settleAccounts_slots_le p placed as) _

end Sys2Proof.Machine

open Sys2Proof Sys2Proof.Machine

/-- Settles O41: the Express pass, the order and the pointer, then the entries of the grant list and their slots. -/
theorem allocationLaws : Obligations.AllocationLaws := by
  refine ⟨⟨fun x a rest => rfl, expressTotal_expressPass_le,
    fun eligible pointer h => ⟨rotationOrder_perm eligible pointer, rotationOrder_pairwise pointer h⟩,
    fun st rest pointer => rfl, fun b => ⟨rfl, rfl⟩⟩, ?_⟩
  intro p o t d hbudget _ horder accounts g
  have hentries : g.entries.map Grant.unplaced = accounts.flatMap accountEntries := grantListOf_unplaced _ _
  refine ⟨?_, ?_, ?_, grantListOf_total _ _, grantListOf_total_le hbudget _ _,
    grantListOf_pairwise _ _ (settledAccounts_nodup o t d p o.placed horder),
    fun pre e post h => first_of_numberEntries h⟩
  · rw [funext accountEntries_eq] at hentries
    exact hentries
  · refine (settledAccounts_stations o t d p o.placed).trans (List.filter_congr fun st _ => ?_)
    cases (t.record st.val).status <;> rfl
  · intro e he
    obtain ⟨a, ha, hstation, hcount, hpos⟩ := mem_grantListOf _ _ he
    obtain ⟨hmem, b, hb, hle⟩ := granted_of_mem_settledAccounts o t d p o.placed ha
    rw [← hstation] at hmem hb
    exact ⟨hpos, hmem, b, hb, hcount.trans_le (hle e.cls)⟩
end

section
/-! SUPPORT. A relation between states that every command other than a reset stays within, once it holds of the few
operations that reach the message queues, the buffer pools and the ports: the one walk through the commands from which the
pool laws and the capacities (R95, R119, R97) and the laws of the class queues (R99, R100) follow. -/

namespace Sys2Proof.Machine

/-- The blocks that hold messages and their buffers, and the local settings. -/
def held (s : State) : Txq × Ras × Dlv × Trb × LocalSettings := (s.txq, s.ras, s.dlv, s.trb, s.mgt.settings)

/-- A relation that holds of the operations by which a command reaches the queues, the pools and the local settings. -/
structure BufferRel (R : State → State → Prop) : Prop where
  trans {s t u : State} : R s t → R t u → R s u
  quiet {s t : State} : held t = held s → R s t
  endQueues (s : State) : R s (endQueues s)
  flushQueue (c : Class) (s : State) : R s (flushQueue c s)
  frameSupplied (c : Class) (s : State) : R s (frameSupplied c s)
  takeIngressWord (kind : WordKind) (w : Word) (s : State) : R s (takeIngressWord kind w s)
  takeEgressWord (s : State) : R s (takeEgressWord s)
  takeSegment (t : Time) (f : SegmentFrame) (s : State) : R s (takeSegment t f s)
  takeAbort (f : AbortFrame) (s : State) : R s (takeAbort f s)
  staleExpiry (t : Time) (src : Station) (cls : Class) (s : State) : R s (staleExpiry t src cls s)
  removeSources (removed : List Station) (s : State) : R s (removeSources removed s)
  storeSetting (addr : Nat) (v : Half) (s : State) :
    R s { s with mgt := { s.mgt with
      profile := writeProfile addr v s.mgt.profile, settings := writeLocal addr v s.mgt.settings } }

namespace BufferRel

theorem ite_of {R : State → State → Prop} {c : Prop} [Decidable c] {s t u : State} (ht : R s t) (hu : R s u) :
    R s (if c then t else u) := by
  split
  · exact ht
  · exact hu

variable {R : State → State → Prop} (h : BufferRel R)
include h

theorem refl (s : State) : R s s := h.quiet rfl

/-- The relation `g` after the relation `k`. -/
theorem after {s t u : State} (g : R t u) (k : R s t) : R s u := h.trans k g

/-- An operation that leaves what is held comes first. -/
theorem after_quiet {s t u : State} (k : R t u) (hq : held t = held s) : R s u := h.trans (h.quiet hq) k

/-! ### Entries into station states -/

theorem of_endSession (s : State) : R s (endSession s) := by
  unfold endSession
  exact h.trans (h.endQueues s) (h.quiet (by simp [held]))

theorem of_enterStopped (s : State) : R s (enterStopped s) := h.after_quiet (h.of_endSession _) (by simp [held])

theorem of_enterHalted (cause : HaltCause) (s : State) : R s (enterHalted cause s) := by
  unfold enterHalted
  exact ite_of (h.refl s) (h.after_quiet (h.of_endSession _) (by simp [held]))

theorem of_enterListen (t : Time) (s : State) : R s (enterListen t s) := by
  unfold enterListen
  exact ite_of (h.of_enterStopped s) (h.quiet (by simp [held]))

theorem of_stepLoss (t : Time) (s : State) : R s (stepLoss t s) := h.after_quiet (h.of_enterListen _ _) rfl

/-! ### TABLEs, and the end of the announcement phase -/

theorem of_loadTable (f : TableFrame) (s : State) : R s (loadTable f s) := by
  unfold loadTable
  extract_lets after removed own ssu written counted
  exact h.trans (h.after_quiet (h.removeSources removed written) rfl) (h.quiet rfl)

theorem of_takeTable (f : TableFrame) (s : State) : R s (takeTable f s) := by
  unfold takeTable
  exact ite_of (ite_of (h.of_loadTable _ _) (h.quiet rfl)) (h.refl s)

theorem of_commit (o : Announcement) (s : State) : R s (commit o s) := by
  unfold commit
  refine h.after_quiet (h.removeSources _ _) ?_
  split <;> rfl

theorem of_verdict (o : Announcement) (s : State) : R s (verdict o s) := by
  unfold verdict
  extract_lets cyc committed inStep inStepCyc kept outOfStep outOfStepCyc
  have hcommitted : R s committed := h.after_quiet (h.of_commit _ _) rfl
  refine ite_of (ite_of ?_ hcommitted) (ite_of (h.quiet ?_) (h.quiet rfl))
  · exact h.trans hcommitted (h.quiet (by simp [held, inStep]))
  · simp [held, outOfStep, kept]

theorem of_endAnnouncement (t : Time) (s : State) : R s (endAnnouncement t s) := by
  unfold endAnnouncement
  extract_lets decided
  have hdecided : R s decided :=
    ite_of (ite_of (h.quiet (by simp [held])) (h.refl s)) (ite_of (h.of_verdict _ s) (h.refl s))
  exact h.trans hdecided (h.quiet (by simp [held]))

/-! ### The cycle boundary -/

theorem of_joinCycleEnds (t : Time) (s : State) : R s (boundaryStep.joinCycleEnds t s) := by
  unfold boundaryStep.joinCycleEnds
  refine ite_of (ite_of ?_ ?_) (h.quiet rfl)
  · exact h.after_quiet (h.of_enterHalted _ _) rfl
  · exact h.after_quiet (h.of_enterListen _ _) rfl

theorem of_boundaryStep (t : Time) (s : State) : R s (boundaryStep t s) := by
  have member : R s (boundaryStep.settleMember s) := h.quiet (by simp [held])
  have notMember : R s (boundaryStep.settleNotMember s) := h.quiet (by simp [held])
  unfold boundaryStep
  split
  · exact member
  · exact member
  · exact member
  · exact notMember
  · exact notMember
  · exact h.after_quiet (h.of_joinCycleEnds _ _) rfl
  · exact h.of_joinCycleEnds _ _
  · exact h.quiet (by simp [held])
  · exact ite_of (h.after_quiet (h.of_stepLoss _ _) rfl) (h.quiet rfl)
  · exact h.of_enterStopped _
  all_goals exact h.refl s

theorem of_takeBoundary (t : Time) (s : State) : R s (takeBoundary t s) := h.after_quiet (h.of_boundaryStep _ _) rfl

theorem of_beginGap (start : Time) (s : State) : R s (beginGap start s) := h.after_quiet (h.of_takeBoundary _ _) rfl

/-! ### BIDs and STARTs -/

theorem of_compareProfile (check : Byte) (s : State) : R s (compareProfile check s) := by
  unfold compareProfile
  exact ite_of (ite_of (h.quiet rfl) (h.of_enterHalted _ _)) (h.refl s)

theorem of_checkDuplicate (st : Station) (own : Bool) (s : State) : R s (checkDuplicate st own s) := by
  unfold checkDuplicate
  exact ite_of (h.of_enterHalted _ _) (h.refl s)

/-- The profile and the number of a BID or START (R29, R30). -/
theorem of_judgeStation (check : Byte) (st : Station) (own : Bool) (s : State) :
    R s (checkDuplicate st own (compareProfile check s)) :=
  h.trans (h.of_compareProfile _ _) (h.of_checkDuplicate _ _ _)

theorem of_countEcho (passed : Bool) (s : State) : R s (countEcho passed s) := by
  unfold countEcho
  exact ite_of (ite_of (h.quiet rfl) (ite_of (h.after_quiet (h.of_enterHalted _ _) rfl) (h.quiet rfl))) (h.refl s)

/-- A record entered, blindness, and the echo of an own BID (R37, R39, R48). -/
theorem of_echoIf {c : Prop} [Decidable c] (passed : Bool) {s t : State} (k : held t = held s) :
    R s (if c then countEcho passed t else t) := ite_of (h.after_quiet (h.of_countEcho _ _) k) (h.quiet k)

/-! ### Slot reports -/

theorem of_enterBidReport (k : Nat) (own : Option Frame) (passed : Bool) (c : SlotClass) (s : State) :
    R s (enterBidReport k own passed c s) := by
  have left {u : State} (g : R s u) : R s (leaveAfterBid own u) := h.trans g (h.quiet (by simp [held]))
  unfold enterBidReport
  split
  · exact h.quiet rfl
  · refine left (h.after (h.of_judgeStation _ _ _ _) (h.of_echoIf _ ?_))
    simp [held, refreshCycle]
  · refine left (h.of_echoIf _ ?_)
    split <;> simp [held]

theorem of_endBidSlot (k : Nat) (t : Time) (s : State) : R s (endBidSlot k t s) := by
  unfold endBidSlot
  exact ite_of (h.refl s) (ite_of (h.quiet rfl) (h.of_endAnnouncement _ _))

theorem of_bidSlotReport (k : Nat) (a : Time) (line : SpanLine) (s : State) : R s (bidSlotReport k a line s) := by
  unfold bidSlotReport
  refine h.after (h.of_endBidSlot _ _ _) (ite_of ?_ (h.quiet rfl))
  exact h.after_quiet (h.of_enterBidReport _ _ _ _ _) rfl

theorem of_handDataFrame (t : Time) (f : Frame) (s : State) : R s (handDataFrame t f s) := by
  cases f with
  | segment g => exact h.takeSegment _ _ _
  | abort g => exact h.takeAbort _ _
  | table g => exact h.of_takeTable _ _
  | empty g => exact h.refl s
  | start st check => exact h.refl s
  | bid g => exact h.refl s

theorem of_dataSlotReport (isOpen : Bool) (i : Nat) (d : Time) (line : SpanLine) (s : State) :
    R s (dataSlotReport isOpen i d line s) := by
  unfold dataSlotReport
  extract_lets own nominal heard block spanEnd next part c dropped
  cases c
  · exact h.quiet rfl
  · exact h.quiet rfl
  · exact ite_of (h.quiet rfl) (h.after_quiet (h.of_handDataFrame _ _ _) rfl)

theorem of_slotReport (line : SpanLine) (s : State) : R s (slotReport line s) := by
  unfold slotReport
  refine ite_of (h.refl s) ?_
  split
  · exact ite_of (h.refl s) (h.quiet (by simp [held]))
  · exact h.of_bidSlotReport _ _ _ _
  · exact ite_of (h.of_dataSlotReport _ _ _ _ _) (h.refl s)
  · exact h.of_dataSlotReport _ _ _ _ _
  · exact h.refl s

/-! ### Unslotted receptions -/

theorem of_beginCycleByBid (own : Bool) (f : BidFrame) (r : Reception) (s : State) :
    R s (beginCycleByBid own f r s) := by
  unfold beginCycleByBid
  extract_lets a cyc timed begun entered blinded counted
  have hbegun : R s begun := ite_of (h.quiet rfl) (h.after_quiet (h.of_takeBoundary _ _) rfl)
  refine ite_of hbegun (h.trans hbegun (h.after (h.of_judgeStation _ _ _ _) (h.of_echoIf _ ?_)))
  simp [held, blinded, entered]

theorem of_takeUnslotted (own : Bool) (f : Frame) (r : Reception) (s : State) : R s (takeUnslotted own f r s) := by
  have fixed (g : Frame) : held (fixEndUnslotted g r s) = held s := by simp [held]
  unfold takeUnslotted
  split
  · exact h.of_beginCycleByBid _ _ _ _
  · exact ite_of (h.refl s) (h.after_quiet (h.of_judgeStation _ _ _ _) rfl)
  · exact h.after_quiet (h.takeSegment _ _ _) (fixed _)
  · exact h.after_quiet (h.takeAbort _ _) (fixed _)
  · exact h.quiet (fixed _)
  · exact h.after_quiet (h.of_takeTable _ _) (fixed _)

theorem of_startEchoFailed (t : Time) (s : State) : R s (startEchoFailed t s) :=
  h.after_quiet (h.of_enterListen _ _) (by simp [held])

theorem of_judgeStartEcho (e : EchoWatch) (f : Option Frame) (r : Reception) (s : State) :
    R s (judgeStartEcho e f r s) := by
  unfold judgeStartEcho
  extract_lets passed counted lif judged
  have hcounted : held counted = held s := by
    unfold counted
    split <;> rfl
  refine h.after_quiet (ite_of (h.quiet rfl) (ite_of (ite_of (h.quiet rfl) (h.quiet rfl)) ?_)) hcounted
  exact h.after_quiet (h.of_startEchoFailed _ _) rfl

theorem of_takeReception (own f : Option Frame) (r : Reception) (s : State) : R s (takeReception own f r s) := by
  unfold takeReception
  split
  · exact h.quiet rfl
  · exact h.of_takeUnslotted _ _ _ _

theorem of_unslottedReception (r : Reception) (s : State) : R s (unslottedReception r s) := by
  unfold unslottedReception
  split
  · exact h.refl s
  · exact h.quiet (by simp [held])
  · refine ite_of (h.refl s) ?_
    split
    · exact h.of_judgeStartEcho _ _ _ _
    · exact ite_of (ite_of (h.after_quiet (h.of_takeReception _ _ _ _) rfl) (h.of_takeReception _ _ _ _)) (h.refl s)

/-! ### Timers and the end of a transmission -/

theorem of_carrierRises (t : Time) (s : State) : R s (carrierRises t s) := by
  unfold carrierRises
  exact ite_of (h.after_quiet (h.of_enterListen _ _) rfl) (ite_of (h.quiet rfl) (h.quiet rfl))

theorem of_settleStartEcho (t : Time) (s : State) : R s (settleStartEcho t s) := by
  unfold settleStartEcho
  extract_lets lif
  split
  · exact h.refl s
  · split
    · exact h.quiet rfl
    · exact h.after_quiet (h.of_startEchoFailed _ _) rfl
    · exact ite_of (h.refl s) (h.after_quiet (h.of_startEchoFailed _ _) rfl)

theorem of_afterTransmission (t : Time) (f : Frame) (s : State) : R s (afterTransmission t f s) := by
  unfold afterTransmission
  extract_lets counted
  have hcounted : held counted = held s := by
    unfold counted
    split <;> rfl
  refine h.after_quiet (ite_of (ite_of (h.quiet rfl) (h.quiet rfl)) (ite_of ?_ (ite_of (h.quiet rfl) (h.quiet rfl)))) hcounted
  exact h.after_quiet (h.of_settleStartEcho _ _) (by simp [held])

theorem of_lineLoss (t : Time) (s : State) : R s (lineLoss t s) := by
  unfold lineLoss
  split
  · exact h.of_stepLoss _ _
  · exact h.of_stepLoss _ _
  · exact h.of_stepLoss _ _
  · exact h.of_stepLoss _ _
  · exact h.of_enterStopped _
  all_goals exact h.refl s

/-! ### The management port -/

theorem of_joinCommand (t : Time) (s : State) : R s (joinCommand t s) := by
  unfold joinCommand
  exact ite_of (ite_of (h.after_quiet (h.of_enterListen _ _) rfl) (h.quiet rfl)) (h.quiet rfl)

theorem of_leaveCommand (s : State) : R s (leaveCommand s) := by
  unfold leaveCommand
  split
  · exact h.quiet rfl
  · exact h.quiet rfl
  · exact h.quiet rfl
  · exact h.quiet rfl
  · exact h.of_enterStopped _
  · exact h.of_enterStopped _
  all_goals exact h.quiet rfl

theorem of_flushCommand (c : Class) (s : State) : R s (flushCommand c s) := by
  unfold flushCommand
  exact ite_of (h.quiet rfl) (h.flushQueue c s)

theorem of_writeRegister (t : Time) (addr : BitVec 7) (v : Half) (s : State)
    (hr : isReset (.registerWrite t addr v) = false) : R s (writeRegister t addr v s) := by
  rcases writeRegister_cases t addr v s with
    ⟨-, e⟩ | e | ⟨c, e⟩ | ⟨hreset, -⟩ | e | ⟨-, e⟩ | ⟨-, -, e⟩ | e
  · exact e ▸ h.of_joinCommand t s
  · exact e ▸ h.of_leaveCommand s
  · exact e ▸ h.of_flushCommand c s
  · exact absurd (hreset.symm.trans hr) (by decide)
  · exact e ▸ h.quiet rfl
  · exact e ▸ h.quiet rfl
  · exact e ▸ h.storeSetting addr.toNat v s
  · exact e.symm ▸ h.refl s

/-! ### Every command -/

/-- Every command but a reset stays within the relation. -/
theorem of_nextState (c : Instr) (s : State) (hreset : isReset c = false) : R s (nextState c s) := by
  cases c with
  | powerOn => cases hreset
  | resetPinAssert => cases hreset
  | softReset => cases hreset
  | resetPinRelease => exact h.quiet rfl
  | cleanUpComplete => exact ite_of (h.refl s) (h.quiet rfl)
  | join t => exact ite_of (h.refl s) (h.after_quiet (h.of_joinCommand _ _) rfl)
  | leave => exact ite_of (h.refl s) (h.after_quiet (h.of_leaveCommand _) rfl)
  | flush c => exact ite_of (h.refl s) (h.after_quiet (h.of_flushCommand _ _) rfl)
  | unknownCommand code => exact ite_of (h.refl s) (ite_of (h.quiet rfl) (h.refl s))
  | registerWrite t addr v => exact ite_of (h.refl s) (h.after_quiet (h.of_writeRegister t addr v _ hreset) rfl)
  | eventsRead => exact ite_of (h.refl s) (h.quiet (by simp [held]))
  | counterRead k => exact ite_of (h.refl s) (h.quiet (by simp [held]))
  | readCapture addr => exact ite_of (h.refl s) (h.quiet rfl)
  | carrierDetect t level =>
    refine ite_of (h.refl s) (ite_of (h.of_carrierRises t s) ?_)
    unfold carrierFalls
    exact ite_of (h.quiet rfl) (h.quiet rfl)
  | listenTimerExpiry t =>
    by_cases hdue : s.cyc.state = .listen ∧ ∃ since, s.cyc.listenTimer = .running since ∧ since + listenTimeout ≤ t
    · obtain ⟨hs, since, hl, hd⟩ := hdue
      rw [nextState_listenTimerExpiry_of_due hs hl hd]
      exact h.quiet (by simp [held])
    · rw [nextState_listenTimerExpiry_of_not_due fun hs since hl hd => hdue ⟨hs, since, hl, hd⟩]
      exact h.refl s
  | coldStartDelayEnd t => exact ite_of (h.quiet rfl) (h.refl s)
  | transmissionEnd t =>
    cases htx : s.lif.tx with
    | none => rw [nextState_transmissionEnd_idle htx]; exact h.refl s
    | some f => rw [nextState_transmissionEnd htx]; exact h.after_quiet (h.of_afterTransmission _ _ _) rfl
  | lineLostTimerExpiry t => exact ite_of (h.after_quiet (h.of_lineLoss _ _) (by simp [held])) (h.refl s)
  | ownBid => exact ite_of (h.quiet rfl) (h.refl s)
  | slotReport line => exact h.of_slotReport line s
  | unslottedReception r => exact h.of_unslottedReception r s
  | cycleBoundary =>
    cases hg : nextGap s.cyc with
    | none => rw [nextState_cycleBoundary_idle hg]; exact h.refl s
    | some start => rw [nextState_cycleBoundary hg]; exact h.of_beginGap _ _
  | tableSend =>
    cases hf : s.ssu.tableOut with
    | none => rw [nextState_tableSend_idle (.inl hf)]; exact h.refl s
    | some f =>
      cases hg : s.alc.grants with
      | none => rw [nextState_tableSend_idle (.inr hg)]; exact h.refl s
      | some g => rw [nextState_tableSend hf hg]; exact ite_of (h.quiet rfl) (h.refl s)
  | frameRequest =>
    cases hg : ownGrantedSlot s with
    | none => rw [nextState_frameRequest_idle hg]; exact h.refl s
    | some g =>
      rw [nextState_frameRequest hg]
      exact ite_of (h.trans (h.frameSupplied _ _) (h.quiet rfl)) (h.refl s)
  | staleTimerExpiry t src cls => exact h.staleExpiry t src cls s
  | ingressWord kind w => exact ite_of (h.takeIngressWord _ _ _) (h.refl s)
  | egressWordTaken => exact ite_of (h.takeEgressWord s) (h.refl s)

end BufferRel

/-- After a reset that is taken nothing is held, the parser waits and no record is in emission (R24, R163, R169, R174). -/
theorem nextState_reset_held {c : Instr} {s : State} (hc : isReset c = true) :
    nextState c s = s ∨ ∃ p f l, (p = .idle ∨ p = .skip) ∧ (f = .idle ∨ f = .breakPending) ∧
      (l = LocalSettings.reset ∨ l = s.mgt.settings) ∧
      held (nextState c s) = (Txq.reset, Ras.reset, Dlv.reset, ⟨p, f⟩, l) := by
  have hframer : framerAfterReset s.trb.framer = .idle ∨ framerAfterReset s.trb.framer = .breakPending := by
    cases s.trb.framer
    · exact .inl rfl
    · exact .inr rfl
    · exact .inr rfl
  cases c with
  | powerOn => exact .inr ⟨_, _, _, .inl rfl, .inl rfl, .inl rfl, rfl⟩
  | resetPinAssert => exact .inr ⟨_, _, _, .inr rfl, hframer, .inl rfl, rfl⟩
  | softReset =>
    rw [nextState_softReset]
    split
    · exact .inl rfl
    · exact .inr ⟨_, _, _, .inr rfl, hframer, .inr rfl, rfl⟩
  | registerWrite t addr v =>
    rw [nextState_registerWrite]
    split
    · exact .inl rfl
    · rw [isReset, Bool.and_eq_true, beq_iff_eq, beq_iff_eq] at hc
      rw [writeRegister, if_pos hc.1, commandWrite, hc.2]
      exact .inr ⟨_, _, _, .inr rfl, hframer, .inr rfl, rfl⟩
  | _ => cases hc

end Sys2Proof.Machine
end

section
/-! SUPPORT. The pool laws and the capacities through every command (R95, R97, R119, R121, R138, R139, R141). -/

namespace Sys2Proof.Machine

/-- No write changes the number of steering entries (R136). -/
theorem writeLocal_steer_length (addr : Nat) (v : Half) (l : LocalSettings) :
    (writeLocal addr v l).steer.length = l.steer.length := by
  unfold writeLocal
  split
  case h_5 =>
    split
    · exact List.length_set
    · rfl
  all_goals rfl

theorem storeSetting_pools (addr : Nat) (v : Half) (s : State) :
    PoolsKept s { s with mgt := { s.mgt with
      profile := writeProfile addr v s.mgt.profile, settings := writeLocal addr v s.mgt.settings } } := by
  refine ⟨rfl, rfl, fun ⟨hqueues, hcontexts, hrecords, hnotices, hlost, hsteer⟩ => ?_⟩
  exact ⟨hqueues, hcontexts, hrecords, hnotices, hlost, (writeLocal_steer_length addr v _).trans hsteer⟩

theorem poolsKept_bufferRel : BufferRel PoolsKept where
  trans := PoolsKept.trans
  quiet h := by
    simp only [held, Prod.mk.injEq] at h
    obtain ⟨htxq, hras, hdlv, htrb, hsettings⟩ := h
    exact .of_eq htxq hras hdlv (by rw [htrb]) hsettings
  endQueues := endQueues_pools
  flushQueue := flushQueue_pools
  frameSupplied := frameSupplied_pools
  takeIngressWord := takeIngressWord_pools
  takeEgressWord := takeEgressWord_pools
  takeSegment := takeSegment_pools
  takeAbort := takeAbort_pools
  staleExpiry := staleExpiry_pools
  removeSources := removeSources_pools
  storeSetting := storeSetting_pools

/-- A part that holds nothing has full pools: no framer state but an emission holds buffers. -/
theorem poolLaws_empty {f : Framer} (hf : f = .idle ∨ f = .breakPending) {l : LocalSettings} (hl : l.steer.length = 16)
    {p : Parser} {s : State} (h : held s = (Txq.reset, Ras.reset, Dlv.reset, ⟨p, f⟩, l)) :
    TxPoolLaw s ∧ RxPoolLaw s ∧ CapacityLaw s := by
  simp only [held, Prod.mk.injEq] at h
  obtain ⟨htxq, hras, hdlv, htrb, hsettings⟩ := h
  have hbuffers : f.buffers = 0 := by
    rcases hf with rfl | rfl
    · rfl
    · rfl
  refine ⟨?_, ?_, ?_⟩
  · rw [TxPoolLaw, htxq]
    rfl
  · rw [RxPoolLaw, hras, hdlv, htrb, hbuffers]
    rfl
  · obtain ⟨hqueues, hcontexts, hrecords, hnotices, hlost, -⟩ := capacityLaw_reset
    rw [CapacityLaw, htxq, hras, hdlv, hsettings]
    exact ⟨hqueues, hcontexts, hrecords, hnotices, hlost, hl⟩

/-- Every command keeps the pool laws and the capacities. -/
theorem nextState_poolLaws (c : Instr) {s : State} (h : TxPoolLaw s ∧ RxPoolLaw s ∧ CapacityLaw s) :
    TxPoolLaw (nextState c s) ∧ RxPoolLaw (nextState c s) ∧ CapacityLaw (nextState c s) := by
  cases hc : isReset c with
  | false =>
    obtain ⟨htx, hrx, hcap⟩ := h
    exact (poolsKept_bufferRel.of_nextState c s hc).laws htx hrx hcap
  | true =>
    rcases nextState_reset_held (s := s) hc with e | ⟨p, f, l, -, hf, hl, e⟩
    · rw [e]
      exact h
    · refine poolLaws_empty hf ?_ e
      rcases hl with rfl | rfl
      · rfl
      · obtain ⟨-, -, -, -, -, -, -, hsteer⟩ := h
        exact hsteer

end Sys2Proof.Machine

open Sys2Proof Sys2Proof.Machine

/-- Settles O56: a step idles or takes a command, and every command keeps the three laws. -/
theorem stepKeepsPoolsAndCapacities : Obligations.StepKeepsPoolsAndCapacities := by
  intro s t htx hrx hcap hstep
  rcases step_cases hstep with rfl | ⟨c, rest, -, rfl⟩
  · exact ⟨htx, hrx, hcap⟩
  · exact nextState_poolLaws c ⟨htx, hrx, hcap⟩
end

section
/-! SUPPORT. The ingress operations of TXQ written out for the state of the ingress record (R100 to R105). -/

namespace Sys2Proof.Machine

theorem mapLast_concat {α : Type} (f : α → α) (l : List α) (a : α) : mapLast f (l ++ [a]) = l ++ [f a] := by
  induction l with
  | nil => rfl
  | cons b l ih =>
    cases l with
    | nil => rfl
    | cons c l => exact congrArg (b :: ·) ih

/-! ### Headers (R101, R102, R105) -/

/-- A header that fails the checks is held as Discarding with the cause. -/
theorem headerTaken_refused {h : FirstHead} {tag : Byte} {len : Nat} {s : State} {cause : RefusalCause}
    (hc : admissionCheck h len s = some cause) :
    headerTaken h tag len s = { s with txq := { s.txq with ingress := .discarding cause h.cls tag } } := by
  rw [headerTaken, hc]

/-- A header that passes the checks is admitted. -/
theorem headerTaken_admitted {h : FirstHead} {tag : Byte} {len : Nat} {s : State} (hc : admissionCheck h len s = none) :
    headerTaken h tag len s =
      { s with txq := { s.txq with
          free := s.txq.free - segmentCount len,
          queues := s.txq.queues.set h.cls (s.txq.queues.get h.cls ++ [newDescriptor h tag len]),
          ingress := .admitted h.cls 0 } } := by
  rw [headerTaken, hc]

theorem inactive_iff (st : StationState) : st.inactive = true ↔ st = .config ∨ st = .stopped ∨ st = .halted := by
  cases st <;> simp [StationState.inactive]

theorem destinationOk_eq_false_iff (s : State) (dest : Destination) :
    destinationOk s dest = false ↔
      (∃ k, dest = .reserved k) ∨ ∃ k, dest = .station k ∧ (k = ownNumber s ∨ s.mgt.profile.lineSize ≤ k.val) := by
  cases dest with
  | station k =>
    simp only [destinationOk, Bool.and_eq_false_iff, bne_eq_false_iff_eq, decide_eq_false_iff_not, not_lt]
    simp
  | group g => simp [destinationOk]
  | all => simp [destinationOk]
  | reserved k => simp [destinationOk]

/-- The five checks of R101 in their order, each as what fails it with its cause. -/
theorem admissionCheck_eq (h : FirstHead) (len : Nat) (s : State) :
    admissionCheck h len s =
      if s.cyc.state.inactive = true then some .notActive
      else if 16 ≤ (s.txq.queues.get h.cls).length then some .queueFull
      else if destinationOk s h.dest = false then some .badDestination
      else if len = 0 ∨ 1024 < len then some .malformed
      else if s.txq.free < segmentCount len then some .noRoom
      else none := by
  have hlen : ((len < 1 || 1024 < len) = true) ↔ (len = 0 ∨ 1024 < len) := by simp
  simp only [admissionCheck, hlen, Bool.not_eq_eq_eq_not, Bool.not_true]

/-- The length of a header that passes the checks (R101). -/
theorem length_of_admitted {h : FirstHead} {len : Nat} {s : State} (hc : admissionCheck h len s = none) :
    1 ≤ len ∧ len ≤ 1024 := by
  rw [admissionCheck_eq] at hc
  split_ifs at hc
  omega

/-! ### Payload words and message ends (R96, R102 to R105) -/

section Admitted
variable {c : Class} {n : Nat} {q : List Descriptor} {d : Descriptor} {s : State}

/-- The descriptor with a payload word written at byte position `n` (R102). -/
def Descriptor.written (n : Nat) (w : Word) (d : Descriptor) : Descriptor :=
  { d with bufs := writeWord d.bufs n (wordBytes w) }

theorem payloadTaken_admitted (w : Word) (hi : s.txq.ingress = .admitted c n) (hq : s.txq.queues.get c = q ++ [d]) :
    payloadTaken w s =
      { s with txq := { s.txq with
          queues := s.txq.queues.set c (q ++ [d.written n w]), ingress := .admitted c (n + 4) } } := by
  simp only [payloadTaken, hi, hq, mapLast_concat]
  rfl

theorem messageEnd_wellFormed (hi : s.txq.ingress = .admitted c n) (hq : s.txq.queues.get c = q ++ [d]) :
    messageEnd .wellFormed s =
      { s with txq := { s.txq with
          queues := s.txq.queues.set c (q ++ [queuedDescriptor (s.txq.seqs.get c) d]),
          seqs := s.txq.seqs.set c (s.txq.seqs.get c + 1), ingress := .none } } := by
  simp only [messageEnd, hi, finishMessage, hq, mapLast_concat]

/-- An Admitted message dropped with a cause (R104). -/
theorem dropMessage_concat (cause : RefusalCause) (hq : s.txq.queues.get c = q ++ [d]) :
    dropMessage cause c s =
      raiseRefused cause c d.tag
        { s with txq := { s.txq with
            free := s.txq.free + d.bufs.length, queues := s.txq.queues.set c q, ingress := .none } } := by
  simp only [dropMessage, hq, List.getLast?_concat, List.dropLast_concat]

theorem messageEnd_malformed (hi : s.txq.ingress = .admitted c n) : messageEnd .malformed s = dropMessage .malformed c s := by
  rw [messageEnd, hi]

theorem messageEnd_broken (hi : s.txq.ingress = .admitted c n) : messageEnd .broken s = dropMessage .broken c s := by
  rw [messageEnd, hi]

end Admitted

section Discarding
variable {k : RefusalCause} {c : Class} {tag : Byte} {s : State}

theorem messageEnd_discarding (e : MessageEnd) (hi : s.txq.ingress = .discarding k c tag) :
    messageEnd e s = raiseRefused k c tag { s with txq := { s.txq with ingress := .none } } := by
  simp only [messageEnd, hi]

theorem payloadTaken_discarding (w : Word) (hi : s.txq.ingress = .discarding k c tag) : payloadTaken w s = s := by
  simp only [payloadTaken, hi]

end Discarding

end Sys2Proof.Machine

open Sys2Proof Sys2Proof.Machine

/-- Settles O46: the Arriving descriptor stands at the tail, and a notice leaves the sequence counters. -/
theorem badMessageEnd : Obligations.BadMessageEnd := by
  intro c n q d s hi hq
  refine ⟨?_, ?_, fun k => by simp⟩
  · rw [messageEnd_malformed hi, dropMessage_concat _ hq]
    rfl
  · rw [messageEnd_broken hi, dropMessage_concat _ hq]
    rfl
end

section
/-! SUPPORT. The laws of a class queue (R97 to R99): the order of its descriptors pair by pair, and what each operation
makes of a lawful descriptor. -/

namespace Sys2Proof.Machine

/-! ### The order of a class queue -/

theorem forall_mem_tail_iff {α : Type} {P : α → Prop} (l : List α) :
    (∀ a ∈ l.tail, P a) ↔ l.Pairwise (fun _ b => P b) := by
  cases l with
  | nil => simp
  | cons a l =>
    rw [List.tail_cons, List.pairwise_cons]
    exact ⟨fun h => ⟨h, List.pairwise_of_forall_mem_list fun _ _ b hb => h b hb⟩, And.left⟩

theorem forall_mem_dropLast_iff {α : Type} {P : α → Prop} (l : List α) :
    (∀ a ∈ l.dropLast, P a) ↔ l.Pairwise (fun a _ => P a) := by
  rw [← List.pairwise_reverse, ← forall_mem_tail_iff]
  simp

/-- What two descriptors of a class queue, the first one ahead of the second, are not (R99). -/
def Ahead (a b : Descriptor) : Prop := (b.st ≠ .sending ∧ b.st ≠ .aborting) ∧ a.st ≠ .arriving

theorem ahead_iff {a b : Descriptor} (hb : b.st = .arriving ∨ b.st = .queued) : Ahead a b ↔ a.st ≠ .arriving := by
  rcases hb with hb | hb <;> simp [Ahead, hb]

theorem queueLaw_iff (cls : Class) (q : List Descriptor) :
    QueueLaw cls q ↔ (∀ d ∈ q, d.lawful cls) ∧ q.Pairwise Ahead := by
  rw [QueueLaw, forall_mem_tail_iff, forall_mem_dropLast_iff]
  exact and_congr_right fun _ => List.pairwise_and_iff.symm

theorem queueLaw_nil (cls : Class) : QueueLaw cls [] := (queueLaw_iff cls []).mpr ⟨by simp, .nil⟩

theorem queueLaw_cons_iff (cls : Class) (d : Descriptor) (q : List Descriptor) :
    QueueLaw cls (d :: q) ↔ d.lawful cls ∧ QueueLaw cls q ∧ ∀ b ∈ q, Ahead d b := by
  simp only [queueLaw_iff, List.forall_mem_cons, List.pairwise_cons]
  tauto

theorem queueLaw_concat_iff (cls : Class) (q : List Descriptor) (d : Descriptor) :
    QueueLaw cls (q ++ [d]) ↔ QueueLaw cls q ∧ d.lawful cls ∧ ∀ a ∈ q, Ahead a d := by
  simp only [queueLaw_iff, List.forall_mem_append, List.forall_mem_singleton, List.pairwise_append,
    List.pairwise_singleton, true_and]
  tauto

/-- The tail of a class queue arrives or has arrived: nothing ahead of it is Arriving. -/
theorem queueLaw_concat_of_tail {cls : Class} {q : List Descriptor} {d : Descriptor}
    (hd : d.st = .arriving ∨ d.st = .queued) :
    QueueLaw cls (q ++ [d]) ↔ QueueLaw cls q ∧ d.lawful cls ∧ noArriving q := by
  rw [queueLaw_concat_iff]
  simp only [ahead_iff hd]
  rfl

theorem noArriving_nil : noArriving [] := fun _ h => absurd h List.not_mem_nil

theorem noArriving_concat {q : List Descriptor} {d : Descriptor} (hq : noArriving q) (hd : d.st ≠ .arriving) :
    noArriving (q ++ [d]) := by
  simpa [noArriving, or_imp, forall_and] using ⟨hq, hd⟩

/-! ### Descriptors -/

theorem one_le_segmentCount {len : Nat} (h : 1 ≤ len) : 1 ≤ segmentCount len := by
  unfold segmentCount
  omega

theorem newDescriptor_lawful {h : FirstHead} {tag : Byte} {len : Nat} (hlen : 1 ≤ len ∧ len ≤ 1024) :
    (newDescriptor h tag len).lawful h.cls :=
  ⟨rfl, hlen.1, hlen.2, rfl, rfl, rfl, List.length_replicate⟩

section
variable {cls : Class} {d : Descriptor} (h : d.lawful cls)
include h

theorem written_lawful (n : Nat) (w : Word) (hst : d.st = .arriving) : (d.written n w).lawful cls := by
  simp only [Descriptor.lawful, Descriptor.written, hst, length_writeWord] at h ⊢
  exact h

theorem queuedDescriptor_lawful (seq : Byte) (hst : d.st = .arriving) : (queuedDescriptor seq d).lawful cls := by
  simp only [Descriptor.lawful, queuedDescriptor, hst, length_zeroBeyond] at h ⊢
  obtain ⟨hcls, hmin, hmax, hsegments, -, hnext, hbufs⟩ := h
  exact ⟨hcls, hmin, hmax, hsegments, rfl, hnext, hbufs⟩

/-- A message with segments left after the one handed over is Sending (R108). -/
theorem sent_lawful (hst : d.st = .queued ∨ d.st = .sending) (hnext : d.next + 1 ≠ d.segments) :
    ({ d with next := d.next + 1, bufs := d.bufs.tail, st := .sending } : Descriptor).lawful cls := by
  obtain ⟨hcls, hmin, hmax, hsegments, hst'⟩ := h
  have hpos := one_le_segmentCount hmin
  simp only [Descriptor.lawful, List.length_tail]
  refine ⟨hcls, hmin, hmax, hsegments, ?_⟩
  rcases hst with hst | hst <;> simp only [hst] at hst'
  · obtain ⟨hseq, hzero, hbufs⟩ := hst'
    exact ⟨hseq, by omega, by omega, by omega⟩
  · obtain ⟨hseq, -, hlt, hbufs⟩ := hst'
    exact ⟨hseq, by omega, by omega, by omega⟩

/-- What FLUSH leaves of a descriptor is lawful (R114). -/
theorem flushed_lawful {e : Descriptor} (he : d.flushed = some e) : e.lawful cls := by
  cases hst : d.st <;> simp only [Descriptor.flushed, hst, Option.some.injEq, reduceCtorEq] at he
  case arriving => exact he ▸ h
  case aborting => exact he ▸ h
  case sending =>
    subst he
    simp only [Descriptor.lawful, hst] at h ⊢
    obtain ⟨hcls, hmin, hmax, hsegments, hseq, -⟩ := h
    exact ⟨hcls, hmin, hmax, hsegments, hseq, trivial⟩

end

/-! ### FLUSH (R114) -/

theorem flushed_arriving {d e : Descriptor} (he : d.flushed = some e) : e.st = .arriving ↔ d.st = .arriving := by
  cases hst : d.st <;> simp only [Descriptor.flushed, hst, Option.some.injEq, reduceCtorEq] at he <;> subst he <;>
    simp [hst]

theorem flushed_ahead {a b a' b' : Descriptor} (h : Ahead a b) (ha : a.flushed = some a') (hb : b.flushed = some b') :
    Ahead a' b' := by
  obtain ⟨⟨hsending, haborting⟩, harriving⟩ := h
  have hst : b.st = .arriving := by
    cases hst : b.st
    case arriving => rfl
    case queued => simp [Descriptor.flushed, hst] at hb
    case sending => exact absurd hst hsending
    case aborting => exact absurd hst haborting
  rw [ahead_iff (.inl ((flushed_arriving hb).mpr hst))]
  exact fun h => harriving ((flushed_arriving ha).mp h)

theorem flushed_queueLaw {cls : Class} {q : List Descriptor} (h : QueueLaw cls q) :
    QueueLaw cls (q.filterMap Descriptor.flushed) := by
  obtain ⟨hlawful, hahead⟩ := (queueLaw_iff cls q).mp h
  refine (queueLaw_iff _ _).mpr ⟨fun e he => ?_, ?_⟩
  · obtain ⟨d, hd, hde⟩ := List.mem_filterMap.mp he
    exact flushed_lawful (hlawful d hd) hde
  · exact hahead.filterMap Descriptor.flushed fun _ _ hab _ ha _ hb => flushed_ahead hab ha hb

theorem flushed_noArriving {q : List Descriptor} (h : noArriving q) : noArriving (q.filterMap Descriptor.flushed) := by
  intro e he
  obtain ⟨d, hd, hde⟩ := List.mem_filterMap.mp he
  exact fun hst => h d hd ((flushed_arriving hde).mp hst)

theorem flushed_concat_arriving {q : List Descriptor} {d : Descriptor} (hd : d.st = .arriving) :
    (q ++ [d]).filterMap Descriptor.flushed = q.filterMap Descriptor.flushed ++ [d] := by
  have hkept : d.flushed = some d := by rw [Descriptor.flushed, hd]
  simp [hkept]

end Sys2Proof.Machine
end

section
/-! SUPPORT. The class queues and the ingress record (R97 to R100, R157) through every command. -/

namespace Sys2Proof.Machine

/-! ### The laws without the parser -/

/-- The parser is between messages: TXQ has none in progress (R156). -/
def Parser.waits : Parser → Bool
  | .idle => true
  | .header _ => true
  | .stray _ => true
  | .skip => true
  | .payload _ _ => false
  | .overrun => false

theorem Parser.waits_iff (p : Parser) : p.waits = true ↔ p ≠ .overrun ∧ ∀ e n, p ≠ .payload e n := by
  cases p <;> simp [Parser.waits]

/-- The class queues and the ingress record, whatever the parser has handed on. -/
def TxqLaw (x : Txq) : Prop :=
  (∀ c, QueueLaw c (x.queues.get c)) ∧
    match x.ingress with
    | .none => ∀ c, noArriving (x.queues.get c)
    | .discarding _ _ _ => ∀ c, noArriving (x.queues.get c)
    | .admitted cls _ =>
      (∀ c, c ≠ cls → noArriving (x.queues.get c)) ∧ ∃ q d, x.queues.get cls = q ++ [d] ∧ d.st = .arriving

/-- Lawful class queues with no message in progress. -/
def NoMessage (x : Txq) : Prop :=
  (∀ c, QueueLaw c (x.queues.get c)) ∧ (∀ c, noArriving (x.queues.get c)) ∧ x.ingress = .none

theorem ClassQueueLaw.txqLaw {s : State} (h : ClassQueueLaw s) : TxqLaw s.txq := by
  obtain ⟨hqueues, hingress, -⟩ := h
  refine ⟨hqueues, ?_⟩
  cases hi : s.txq.ingress <;> rw [hi] at hingress
  case none => exact hingress.1
  case discarding => exact hingress.1
  case admitted cls written =>
    obtain ⟨hothers, d, hlast, hd, -⟩ := hingress
    obtain ⟨q, hq⟩ := List.getLast?_eq_some_iff.mp hlast
    exact ⟨hothers, q, d, hq, hd⟩

/-- While the parser waits no message is in progress. -/
theorem ClassQueueLaw.noMessage {s : State} (h : ClassQueueLaw s) (hp : s.trb.parser.waits = true) : NoMessage s.txq := by
  obtain ⟨hqueues, hingress, -⟩ := h
  obtain ⟨hoverrun, hpayload⟩ := (Parser.waits_iff _).mp hp
  have absent {P : Nat → Nat → Prop} : ¬(s.trb.parser = .overrun ∨ ∃ e n, s.trb.parser = .payload e n ∧ P e n) := by
    rintro (ho | ⟨e, n, hpay, -⟩)
    · exact hoverrun ho
    · exact hpayload e n hpay
  cases hi : s.txq.ingress <;> rw [hi] at hingress
  case none => exact ⟨hqueues, hingress.1, hi⟩
  case discarding => exact absurd (by simpa using hingress.2) (absent (P := fun _ _ => True))
  case admitted cls written =>
    obtain ⟨-, d, -, -, hhanded⟩ := hingress
    exact absurd hhanded absent

/-- With no message in progress the parser waits. -/
theorem NoMessage.law {s : State} (h : NoMessage s.txq) (hp : s.trb.parser.waits = true) : ClassQueueLaw s := by
  obtain ⟨hqueues, hnone, hi⟩ := h
  obtain ⟨hoverrun, hpayload⟩ := (Parser.waits_iff _).mp hp
  refine ⟨hqueues, ?_, fun e n he => absurd he (hpayload e n)⟩
  rw [hi]
  exact ⟨hnone, hoverrun, hpayload⟩

theorem noMessage_reset : NoMessage Txq.reset := by
  have hqueues (c : Class) : Txq.reset.queues.get c = [] := Four.get_all _ c
  refine ⟨fun c => ?_, fun c => ?_, rfl⟩
  · rw [hqueues]
    exact queueLaw_nil c
  · rw [hqueues]
    exact noArriving_nil

/-- What is said of every class holds after one queue is replaced, where it holds of the new queue. -/
theorem Four.forall_get_set {α : Type} {P : Class → α → Prop} {f : Four α} {c : Class} {a : α} (ha : P c a)
    (hf : ∀ b, b ≠ c → P b (f.get b)) (b : Class) : P b ((f.set c a).get b) := by
  by_cases hb : b = c
  · rw [hb, Four.get_set_self]
    exact ha
  · rw [Four.get_set_of_ne f a hb]
    exact hf b hb

theorem noArriving_set_of_ne {f : Four (List Descriptor)} {b c : Class} {q : List Descriptor} (hb : b ≠ c)
    (h : noArriving (f.get b)) : noArriving ((f.set c q).get b) := by
  rw [Four.get_set_of_ne f q hb]
  exact h

/-! ### Message ends and payload words -/

theorem raiseRefused_keeps_txq (k : RefusalCause) (c : Class) (tag : Byte) (s : State) :
    (raiseRefused k c tag s).txq = s.txq := by simp

theorem messageEnd_noMessage (e : MessageEnd) {s : State} (h : TxqLaw s.txq) : NoMessage (messageEnd e s).txq := by
  obtain ⟨hqueues, hingress⟩ := h
  cases hi : s.txq.ingress with
  | none =>
    rw [hi] at hingress
    rw [messageEnd, hi]
    exact ⟨hqueues, hingress, hi⟩
  | discarding k c tag =>
    rw [hi] at hingress
    rw [messageEnd_discarding e hi, raiseRefused_keeps_txq]
    exact ⟨hqueues, hingress, rfl⟩
  | admitted c n =>
    rw [hi] at hingress
    obtain ⟨hothers, q, d, hq, hd⟩ := hingress
    obtain ⟨hrest, hlawful, hnone⟩ := (queueLaw_concat_of_tail (.inl hd)).mp (hq ▸ hqueues c)
    have dropped (k : RefusalCause) : NoMessage (dropMessage k c s).txq := by
      rw [dropMessage_concat k hq, raiseRefused_keeps_txq]
      exact ⟨Four.forall_get_set hrest fun b _ => hqueues b,
        Four.forall_get_set (P := fun _ => noArriving) hnone hothers, rfl⟩
    cases e with
    | malformed => exact messageEnd_malformed hi ▸ dropped _
    | broken => exact messageEnd_broken hi ▸ dropped _
    | wellFormed =>
      rw [messageEnd_wellFormed hi hq]
      refine ⟨Four.forall_get_set ?_ fun b _ => hqueues b,
        Four.forall_get_set (P := fun _ => noArriving) (noArriving_concat hnone (by simp [queuedDescriptor])) hothers, rfl⟩
      exact (queueLaw_concat_of_tail (.inr rfl)).mpr ⟨hrest, queuedDescriptor_lawful hlawful _ hd, hnone⟩

theorem payloadTaken_txqLaw (w : Word) {s : State} (h : TxqLaw s.txq) : TxqLaw (payloadTaken w s).txq := by
  obtain ⟨hqueues, hingress⟩ := h
  cases hi : s.txq.ingress with
  | none =>
    rw [payloadTaken, hi]
    exact ⟨hqueues, hingress⟩
  | discarding k c tag =>
    rw [payloadTaken_discarding w hi]
    exact ⟨hqueues, hingress⟩
  | admitted c n =>
    rw [hi] at hingress
    obtain ⟨hothers, q, d, hq, hd⟩ := hingress
    obtain ⟨hrest, hlawful, hnone⟩ := (queueLaw_concat_of_tail (.inl hd)).mp (hq ▸ hqueues c)
    rw [payloadTaken_admitted w hi hq]
    refine ⟨Four.forall_get_set ?_ fun b _ => hqueues b, fun b hb => noArriving_set_of_ne hb (hothers b hb), q,
      d.written n w, Four.get_set_self _ _ _, hd⟩
    exact (queueLaw_concat_of_tail (d := d.written n w) (.inl hd)).mpr ⟨hrest, written_lawful hlawful n w hd, hnone⟩

end Sys2Proof.Machine
end

section
/-! SUPPORT. The ingress parser, the head of a class queue, FLUSH and the session end under the laws of the class queues. -/

namespace Sys2Proof.Machine

/-! ### Words of the ingress parser (R156, R157) -/

theorem payloadWords_pos (len : Nat) : 0 < payloadWords len := by
  unfold payloadWords
  split <;> omega

/-- A header taken: the parser expects the payload of the message that is admitted or discarded (R101, R102, R105). -/
theorem headerTaken_law (h : FirstHead) (tag : Byte) (len : Nat) {s : State} (hs : NoMessage s.txq) :
    ClassQueueLaw (setParser (.payload (payloadWords len) 0) (headerTaken h tag len s)) := by
  obtain ⟨hqueues, hnone, -⟩ := hs
  have hparser (e n : Nat) : Parser.payload (payloadWords len) 0 = .payload e n → n < e := by
    rintro ⟨⟩
    exact payloadWords_pos len
  cases hc : admissionCheck h len s with
  | some cause =>
    rw [headerTaken_refused hc]
    exact ⟨hqueues, ⟨hnone, .inr ⟨_, _, rfl⟩⟩, hparser⟩
  | none =>
    rw [headerTaken_admitted hc]
    refine ⟨Four.forall_get_set ?_ fun b _ => hqueues b, ⟨fun b hb => ?_, newDescriptor h tag len, ?_, rfl, ?_⟩, hparser⟩
    · refine (queueLaw_concat_of_tail (.inl rfl)).mpr ⟨hqueues h.cls, ?_, hnone h.cls⟩
      exact newDescriptor_lawful (length_of_admitted hc)
    · exact noArriving_set_of_ne hb (hnone b)
    · exact (congrArg List.getLast? (Four.get_set_self _ _ _)).trans List.getLast?_concat
    · exact .inr ⟨_, _, rfl, rfl, rfl⟩

/-- The parser hands on a payload word that is not the last one. -/
theorem payloadTaken_law (w : Word) {e n : Nat} {s : State} (h : ClassQueueLaw s) (hp : s.trb.parser = .payload e n)
    (hn : n + 1 < e) : ClassQueueLaw (setParser (.payload e (n + 1)) (payloadTaken w s)) := by
  have hqueues : ∀ c, QueueLaw c ((payloadTaken w s).txq.queues.get c) := (payloadTaken_txqLaw w h.txqLaw).1
  obtain ⟨-, hingress, -⟩ := h
  refine ⟨hqueues, ?_, by rintro _ _ ⟨⟩; exact hn⟩
  cases hi : s.txq.ingress <;> rw [hi] at hingress
  case none => exact absurd hp (hingress.2.2 e n)
  case discarding k c tag =>
    rw [payloadTaken_discarding w hi]
    simp only [setParser, hi]
    exact ⟨hingress.1, .inr ⟨_, _, rfl⟩⟩
  case admitted c written =>
    obtain ⟨hothers, d, hlast, hd, hhanded⟩ := hingress
    obtain ⟨q, hq⟩ := List.getLast?_eq_some_iff.mp hlast
    have hwritten : e = payloadWords d.len ∧ written = 4 * n := by simpa [hp] using hhanded
    obtain ⟨he, rfl⟩ := hwritten
    rw [payloadTaken_admitted w hi hq]
    refine ⟨fun b hb => ?_, d.written (4 * n) w, ?_, hd, .inr ⟨e, n + 1, rfl, he, rfl⟩⟩
    · exact noArriving_set_of_ne hb (hothers b hb)
    · exact (congrArg List.getLast? (Four.get_set_self _ _ _)).trans List.getLast?_concat

/-- The parser hands on nothing more of a message that goes beyond its length. -/
theorem overrun_law {e n : Nat} {s : State} (h : ClassQueueLaw s) (hp : s.trb.parser = .payload e n) :
    ClassQueueLaw (setParser .overrun s) := by
  obtain ⟨hqueues, hingress, -⟩ := h
  refine ⟨hqueues, ?_, fun _ _ => Parser.noConfusion⟩
  cases hi : s.txq.ingress <;> rw [hi] at hingress <;> simp only [setParser, hi]
  case none => exact absurd hp (hingress.2.2 e n)
  case discarding => exact ⟨hingress.1, .inl trivial⟩
  case admitted =>
    obtain ⟨hothers, d, hlast, hd, -⟩ := hingress
    exact ⟨hothers, d, hlast, hd, .inl trivial⟩

section Words
variable {s : State}

theorem NoMessage.raised (h : NoMessage s.txq) (k : RefusalCause) (c : Class) (tag : Byte) :
    NoMessage (raiseRefused k c tag s).txq := by
  rw [raiseRefused_keeps_txq]
  exact h

theorem NoMessage.parsed (h : NoMessage s.txq) {p : Parser} (hp : p.waits = true) : ClassQueueLaw (setParser p s) :=
  NoMessage.law (s := setParser p s) h hp

variable (h : ClassQueueLaw s)
include h

theorem takeHead_law (w : Word) : ClassQueueLaw (takeHead w s) := by
  have ended (e : MessageEnd) : NoMessage (messageEnd e s).txq := messageEnd_noMessage e h.txqLaw
  unfold takeHead
  cases hp : s.trb.parser with
  | idle => exact (h.noMessage (by rw [hp]; rfl)).parsed rfl
  | header f => exact headerTaken_law _ _ _ (h.noMessage (by rw [hp]; rfl))
  | payload e n => exact (ended _).parsed rfl
  | overrun => exact (ended _).parsed rfl
  | stray c => exact ((h.noMessage (by rw [hp]; rfl)).raised _ _ _).parsed rfl
  | skip => exact (h.noMessage (by rw [hp]; rfl)).parsed rfl

theorem takeBody_law (w : Word) : ClassQueueLaw (takeBody w s) := by
  unfold takeBody
  cases hp : s.trb.parser with
  | idle => exact (h.noMessage (by rw [hp]; rfl)).parsed rfl
  | header f => exact (h.noMessage (by rw [hp]; rfl)).parsed rfl
  | payload e n =>
    dsimp only
    split
    · rename_i hn
      exact payloadTaken_law w h hp hn
    · exact overrun_law h hp
  | overrun => exact h
  | stray c => exact h
  | skip => exact h

theorem takeTail_law (w : Word) : ClassQueueLaw (takeTail w s) := by
  have ended (e : MessageEnd) : NoMessage (messageEnd e s).txq := messageEnd_noMessage e h.txqLaw
  unfold takeTail
  cases hp : s.trb.parser with
  | idle => exact ((h.noMessage (by rw [hp]; rfl)).raised _ _ _).law (by simp [hp, Parser.waits])
  | header f => exact ((h.noMessage (by rw [hp]; rfl)).raised _ _ _).parsed rfl
  | payload e n =>
    dsimp only
    split
    · exact (messageEnd_noMessage _ (payloadTaken_txqLaw w h.txqLaw)).parsed rfl
    · exact (ended _).parsed rfl
  | overrun => exact (ended _).parsed rfl
  | stray c => exact ((h.noMessage (by rw [hp]; rfl)).raised _ _ _).parsed rfl
  | skip => exact (h.noMessage (by rw [hp]; rfl)).parsed rfl

theorem takeBreak_law : ClassQueueLaw (takeBreak s) := by
  have ended (e : MessageEnd) : NoMessage (messageEnd e s).txq := messageEnd_noMessage e h.txqLaw
  unfold takeBreak
  cases hp : s.trb.parser with
  | idle => exact h
  | header f => exact ((h.noMessage (by rw [hp]; rfl)).raised _ _ _).parsed rfl
  | payload e n => exact (ended _).parsed rfl
  | overrun => exact (ended _).parsed rfl
  | stray c => exact ((h.noMessage (by rw [hp]; rfl)).raised _ _ _).parsed rfl
  | skip => exact (h.noMessage (by rw [hp]; rfl)).parsed rfl

theorem takeIngressWord_law (kind : WordKind) (w : Word) : ClassQueueLaw (takeIngressWord kind w s) := by
  cases kind with
  | head => exact takeHead_law h w
  | body => exact takeBody_law h w
  | tail => exact takeTail_law h w
  | brk => exact takeBreak_law h

end Words

/-! ### A class queue changed elsewhere than at an Arriving tail -/

/-- What is ahead of the tail may be taken or changed: an Arriving tail stays, and none comes. -/
def TailKept (q q' : List Descriptor) : Prop :=
  (noArriving q → noArriving q') ∧ ∀ d, d.st = .arriving → q.getLast? = some d → q'.getLast? = some d

theorem ClassQueueLaw.replace {s t : State} {c : Class} {q : List Descriptor} (h : ClassQueueLaw s) (hq : QueueLaw c q)
    (htail : TailKept (s.txq.queues.get c) q) (hqueues : t.txq.queues = s.txq.queues.set c q)
    (hingress : t.txq.ingress = s.txq.ingress) (hparser : t.trb.parser = s.trb.parser) : ClassQueueLaw t := by
  obtain ⟨hlaws, hrecord, hcount⟩ := h
  obtain ⟨hnone, hlast⟩ := htail
  have unchanged {b : Class} (hb : b ≠ c) : (s.txq.queues.set c q).get b = s.txq.queues.get b := Four.get_set_of_ne _ _ hb
  have kept {P : Class → Prop} (hP : ∀ b, P b → noArriving (s.txq.queues.get b)) (b : Class) (hb : P b) :
      noArriving ((s.txq.queues.set c q).get b) := by
    by_cases hbc : b = c
    · rw [hbc, Four.get_set_self]
      exact hnone (hbc ▸ hP b hb)
    · rw [unchanged hbc]
      exact hP b hb
  rw [ClassQueueLaw, IngressLaw, hqueues, hingress, hparser]
  refine ⟨Four.forall_get_set hq fun b _ => hlaws b, ?_, hcount⟩
  cases hi : s.txq.ingress <;> rw [hi] at hrecord
  case none => exact ⟨fun b => kept (P := fun _ => True) (fun b _ => hrecord.1 b) b trivial, hrecord.2⟩
  case discarding => exact ⟨fun b => kept (P := fun _ => True) (fun b _ => hrecord.1 b) b trivial, hrecord.2⟩
  case admitted cls written =>
    obtain ⟨hothers, d, hd, hst, hhanded⟩ := hrecord
    refine ⟨kept hothers, d, ?_, hst, hhanded⟩
    by_cases hc : cls = c
    · subst hc
      rw [Four.get_set_self]
      exact hlast d hst hd
    · rw [unchanged hc]
      exact hd

theorem tailKept_of_head {d : Descriptor} {q : List Descriptor} (hd : d.st ≠ .arriving) : TailKept (d :: q) q := by
  refine ⟨fun h e he => h e (List.mem_cons_of_mem d he), fun e he hlast => ?_⟩
  cases q with
  | nil =>
    obtain rfl : d = e := by simpa using hlast
    exact absurd he hd
  | cons a q => simpa using hlast

theorem tailKept_of_changed_head {d d' : Descriptor} {q : List Descriptor} (hd : d.st ≠ .arriving)
    (hd' : d'.st ≠ .arriving) : TailKept (d :: q) (d' :: q) := by
  obtain ⟨hnone, hlast⟩ := tailKept_of_head (q := q) hd
  refine ⟨fun h => List.forall_mem_cons.mpr ⟨hd', hnone h⟩, fun e he hl => ?_⟩
  rw [List.getLast?_cons, hlast e he hl]
  rfl

theorem tailKept_flushed (q : List Descriptor) : TailKept q (q.filterMap Descriptor.flushed) := by
  refine ⟨flushed_noArriving, fun d hd hlast => ?_⟩
  obtain ⟨rest, rfl⟩ := List.getLast?_eq_some_iff.mp hlast
  rw [flushed_concat_arriving hd, List.getLast?_concat]

/-! ### Sending, FLUSH and the session end -/

/-- The head of a queue is handed over and retired, or is Sending at its next segment (R108, R109). -/
theorem segmentSent_law {c : Class} {d : Descriptor} {q : List Descriptor} {s : State} (h : ClassQueueLaw s)
    (hq : s.txq.queues.get c = d :: q) (hd : d.st = .queued ∨ d.st = .sending) : ClassQueueLaw (segmentSent c d q s) := by
  have hst : d.st ≠ .arriving := by rcases hd with hd | hd <;> simp [hd]
  obtain ⟨hlawful, hrest, hahead⟩ := (queueLaw_cons_iff c d q).mp (hq ▸ h.1 c)
  unfold segmentSent
  split
  · dsimp only
    split <;> exact h.replace hrest (hq ▸ tailKept_of_head hst) (by simp) (by simp) (by simp)
  · rename_i hnext
    refine h.replace ?_ (hq ▸ tailKept_of_changed_head hst ?_) rfl rfl rfl
    · exact (queueLaw_cons_iff _ _ _).mpr ⟨sent_lawful hlawful hd hnext, hrest, fun b hb => ⟨(hahead b hb).1, nofun⟩⟩
    · exact nofun

theorem frameSupplied_law (c : Class) {s : State} (h : ClassQueueLaw s) : ClassQueueLaw (frameSupplied c s) := by
  cases hq : s.txq.queues.get c with
  | nil => rw [frameSupplied_empty hq]; exact h
  | cons d q =>
    cases hd : d.st with
    | arriving => rw [frameSupplied_arriving hq hd]; exact h
    | queued => rw [frameSupplied_sending hq (.inl hd)]; exact segmentSent_law h hq (.inl hd)
    | sending => rw [frameSupplied_sending hq (.inr hd)]; exact segmentSent_law h hq (.inr hd)
    | aborting =>
      obtain ⟨-, hrest, -⟩ := (queueLaw_cons_iff c d q).mp (hq ▸ h.1 c)
      rw [frameSupplied_aborting hq hd]
      exact h.replace hrest (hq ▸ tailKept_of_head (by simp [hd])) rfl rfl rfl

theorem flushQueue_law (c : Class) {s : State} (h : ClassQueueLaw s) : ClassQueueLaw (flushQueue c s) :=
  h.replace (flushed_queueLaw (h.1 c)) (tailKept_flushed _) (by simp [flushQueue]) (by simp) (by simp)

/-- The session end leaves empty queues, and turns a message in progress into one that is discarded (R116). -/
theorem endQueues_law {s : State} (h : ClassQueueLaw s) : ClassQueueLaw (endQueues s) := by
  have hempty (c : Class) : (endQueues s).txq.queues.get c = [] := by rw [endQueues_queues, Four.get_all]
  have hnone (c : Class) : noArriving ((endQueues s).txq.queues.get c) := by
    rw [hempty]
    exact noArriving_nil
  have hparser : (endQueues s).trb.parser = s.trb.parser := by simp
  have hending := Txq.endQueues_ingress h
  rw [← endQueues_txq] at hending
  obtain ⟨-, hrecord, hcount⟩ := h
  refine ⟨fun c => hempty c ▸ queueLaw_nil c, ?_, hparser ▸ hcount⟩
  rw [hparser]
  cases hi : s.txq.ingress <;> rw [hi] at hrecord hending
  case none =>
    rw [hending]
    exact ⟨hnone, hrecord.2⟩
  case discarding =>
    rw [hending]
    exact ⟨hnone, hrecord.2⟩
  case admitted =>
    obtain ⟨d, -, hdiscarding⟩ := hending
    obtain ⟨-, e, -, -, hhanded⟩ := hrecord
    rw [hdiscarding]
    exact ⟨hnone, hhanded.imp_right fun ⟨n, m, hp, _⟩ => ⟨n, m, hp⟩⟩

/-! ### Every command -/

/-- The laws of the class queues and of the ingress record are kept. -/
def QueuesKept (s t : State) : Prop := ClassQueueLaw s → ClassQueueLaw t

theorem QueuesKept.of_eq {s t : State} (htxq : t.txq = s.txq) (hparser : t.trb.parser = s.trb.parser) : QueuesKept s t := by
  intro h
  rw [ClassQueueLaw, IngressLaw, htxq, hparser]
  exact h

theorem queuesKept_bufferRel : BufferRel QueuesKept where
  trans h g k := g (h k)
  quiet h := by
    simp only [held, Prod.mk.injEq] at h
    obtain ⟨htxq, -, -, htrb, -⟩ := h
    exact .of_eq htxq (by rw [htrb])
  endQueues _ := endQueues_law
  flushQueue c _ := flushQueue_law c
  frameSupplied c _ := frameSupplied_law c
  takeIngressWord kind w _ h := takeIngressWord_law h kind w
  takeEgressWord _ := .of_eq (by simp) (by simp)
  takeSegment _ _ _ := .of_eq (by simp) (by simp)
  takeAbort _ _ := .of_eq (by simp) (by simp)
  staleExpiry _ _ _ _ := .of_eq (by simp) (by simp)
  removeSources _ _ := .of_eq (by simp) (by simp)
  storeSetting _ _ _ := .of_eq rfl rfl

theorem nextState_classQueueLaw (c : Instr) {s : State} (h : ClassQueueLaw s) : ClassQueueLaw (nextState c s) := by
  cases hc : isReset c with
  | false => exact queuesKept_bufferRel.of_nextState c s hc h
  | true =>
    rcases nextState_reset_held (s := s) hc with e | ⟨p, f, l, hp, -, -, e⟩
    · rw [e]
      exact h
    · simp only [held, Prod.mk.injEq] at e
      obtain ⟨htxq, -, -, htrb, -⟩ := e
      refine NoMessage.law (htxq ▸ noMessage_reset) ?_
      rw [htrb]
      rcases hp with rfl | rfl
      · rfl
      · rfl

end Sys2Proof.Machine

open Sys2Proof Sys2Proof.Machine

/-- Settles O59: a step idles or takes a command, and every command keeps the laws of the class queues. -/
theorem stepKeepsClassQueueLaw : Obligations.StepKeepsClassQueueLaw := by
  intro s t h hstep
  rcases step_cases hstep with rfl | ⟨c, rest, -, rfl⟩
  · exact h
  · exact nextState_classQueueLaw c h
end

section
/-! SUPPORT. FLUSH as an instruction (R114, R168), and the bytes of a buffer list after a payload word and after a
well-formed end (R102, R103). -/

namespace Sys2Proof.Machine

/-! ### FLUSH (R114, R168) -/

theorem flushCommand_refused {s : State} (c : Class) (hs : s.cyc.state = .config) :
    flushCommand c s = refuseCommand s :=
  if_pos hs

theorem flushCommand_taken {s : State} (c : Class) (hs : s.cyc.state ≠ .config) : flushCommand c s = flushQueue c s :=
  if_neg hs

theorem exec_flush_unpinned {s : State} (c : Class) (hpin : s.pins.resetPin = false) :
    exec (.flush c) s = .next (flushCommand c (endRead s)) := by
  rw [exec_eq_next, nextState_flush, hpin, if_neg Bool.false_ne_true]

/-- A class queue under FLUSH with the three functions of a descriptor given by their values. -/
theorem flushQueue_eq {notice : Descriptor → Option Notice} {frees : Descriptor → Nat}
    {kept : Descriptor → Option Descriptor} (c : Class) (s : State) (hnotice : ∀ d, notice d = d.flushNotice)
    (hfrees : ∀ d, frees d = d.flushFrees) (hkept : ∀ d, kept d = d.flushed) :
    flushQueue c s =
      takeNotices ((s.txq.queues.get c).filterMap notice)
        { s with txq := { s.txq with
            free := s.txq.free + ((s.txq.queues.get c).map frees).sum,
            queues := s.txq.queues.set c ((s.txq.queues.get c).filterMap kept) } } := by
  obtain rfl : notice = Descriptor.flushNotice := funext hnotice
  obtain rfl : frees = Descriptor.flushFrees := funext hfrees
  obtain rfl : kept = Descriptor.flushed := funext hkept
  rfl

/-! ### Bytes of a list of buffers -/

/-- Every buffer holds 32 bytes. -/
def FullBuffers (bufs : List (List Byte)) : Prop := ∀ b ∈ bufs, b.length = 32

/-- The byte at `i` stands in buffer `i / 32` at position `i % 32`. -/
theorem FullBuffers.getD_flatten {bufs : List (List Byte)} (h : FullBuffers bufs) (i : Nat) :
    bufs.flatten.getD i 0 = (bufs.getD (i / 32) []).getD (i % 32) 0 := by
  induction bufs generalizing i with
  | nil => simp
  | cons b bufs ih =>
    have hb : b.length = 32 := h b List.mem_cons_self
    have ht : FullBuffers bufs := fun x hx => h x (List.mem_cons_of_mem b hx)
    rw [List.flatten_cons]
    rcases Nat.lt_or_ge i 32 with hi | hi
    · rw [List.getD_append _ _ _ _ (by omega), Nat.div_eq_of_lt hi, Nat.mod_eq_of_lt hi, List.getD_cons_zero]
    · obtain ⟨j, rfl⟩ := Nat.exists_eq_add_of_le' hi
      rw [List.getD_append_right _ _ _ _ (by omega), hb, Nat.add_sub_cancel, ih ht, Nat.add_div_right j (by omega),
        Nat.add_mod_right, List.getD_cons_succ]

theorem FullBuffers.length_getD {bufs : List (List Byte)} (h : FullBuffers bufs) {k : Nat} (hk : k < bufs.length) :
    (bufs.getD k []).length = 32 := by
  rw [List.getD_eq_getElem _ _ hk]
  exact h _ (List.getElem_mem hk)

/-! ### A payload word (R102) -/

theorem length_wordBytes (w : Word) : (wordBytes w).length = 4 := rfl

/-- A buffer with four bytes replaced from position `r`. -/
def splice (r : Nat) (bytes b : List Byte) : List Byte := b.take r ++ bytes ++ b.drop (r + 4)

section Splice
variable {r : Nat} {bytes b : List Byte}

theorem length_splice (hbytes : bytes.length = 4) (hr : r + 4 ≤ b.length) : (splice r bytes b).length = b.length := by
  simp only [splice, List.length_append, List.length_take, List.length_drop]
  omega

theorem getD_splice (hbytes : bytes.length = 4) (hr : r + 4 ≤ b.length) (j : Nat) :
    (splice r bytes b).getD j 0 = if r ≤ j ∧ j < r + 4 then bytes.getD (j - r) 0 else b.getD j 0 := by
  have htake : (b.take r).length = r := List.length_take_of_le (by omega)
  have hmid : (b.take r ++ bytes).length = r + 4 := by rw [List.length_append, htake, hbytes]
  unfold splice
  rcases Nat.lt_or_ge j r with hj | hj
  · rw [List.append_assoc, List.getD_append _ _ _ _ (by omega), if_neg (by omega)]
    simp only [List.getD_eq_getElem?_getD, List.getElem?_take_of_lt hj]
  rcases Nat.lt_or_ge j (r + 4) with hj' | hj'
  · rw [List.getD_append _ _ _ _ (by omega), List.getD_append_right _ _ _ _ (by omega), htake, if_pos ⟨hj, hj'⟩]
  · rw [List.getD_append_right _ _ _ _ (by omega), hmid, if_neg (by omega)]
    simp only [List.getD_eq_getElem?_getD, List.getElem?_drop, Nat.add_sub_cancel' hj']

end Splice

theorem writeWord_eq (bufs : List (List Byte)) (p : Nat) (bytes : List Byte) :
    writeWord bufs p bytes = bufs.set (p / 32) (splice (p % 32) bytes (bufs.getD (p / 32) [])) := rfl

section WriteWord
variable {bufs : List (List Byte)} {bytes : List Byte} {n : Nat}

/-- The word-aligned position `4 * n` leaves room for four bytes in its buffer. -/
theorem FullBuffers.room (h : FullBuffers bufs) (hn : 4 * n + 4 ≤ 32 * bufs.length) :
    4 * n % 32 + 4 ≤ (bufs.getD (4 * n / 32) []).length := by
  rw [h.length_getD (by omega)]
  omega

theorem FullBuffers.writeWord (h : FullBuffers bufs) (hbytes : bytes.length = 4) (hn : 4 * n + 4 ≤ 32 * bufs.length) :
    FullBuffers (writeWord bufs (4 * n) bytes) := by
  intro b hb
  rw [writeWord_eq] at hb
  rcases List.mem_or_eq_of_mem_set hb with hb | rfl
  · exact h b hb
  · rw [length_splice hbytes (h.room hn), h.length_getD (by omega)]

/-- A word changes the four bytes at its position and no other. -/
theorem getD_flatten_writeWord (h : FullBuffers bufs) (hbytes : bytes.length = 4) (hn : 4 * n + 4 ≤ 32 * bufs.length)
    (i : Nat) :
    (writeWord bufs (4 * n) bytes).flatten.getD i 0 =
      if 4 * n ≤ i ∧ i < 4 * n + 4 then bytes.getD (i - 4 * n) 0 else bufs.flatten.getD i 0 := by
  rw [(h.writeWord hbytes hn).getD_flatten, h.getD_flatten, writeWord_eq]
  by_cases hk : i / 32 = 4 * n / 32
  · have hin : (4 * n % 32 ≤ i % 32 ∧ i % 32 < 4 * n % 32 + 4) ↔ (4 * n ≤ i ∧ i < 4 * n + 4) := by omega
    have hlt : 4 * n / 32 < bufs.length := by omega
    have hset (b : List Byte) : (bufs.set (4 * n / 32) b).getD (4 * n / 32) [] = b := by
      rw [List.getD_eq_getElem?_getD, List.getElem?_set_self hlt, Option.getD_some]
    rw [hk, hset, getD_splice hbytes (h.room hn)]
    simp only [hin]
    split_ifs with hpos
    · congr 1
      omega
    · rfl
  · have hout : ¬(4 * n ≤ i ∧ i < 4 * n + 4) := by omega
    have hset (b : List Byte) : (bufs.set (4 * n / 32) b).getD (i / 32) [] = bufs.getD (i / 32) [] := by
      simp only [List.getD_eq_getElem?_getD, List.getElem?_set_ne (Ne.symm hk)]
    rw [if_neg hout, hset]

end WriteWord

/-! ### A well-formed end (R103) -/

/-- A buffer with zeros from position `used` on. -/
def blankFrom (used : Nat) (b : List Byte) : List Byte := b.take used ++ List.replicate (32 - used) 0

section BlankFrom
variable {used : Nat} {b : List Byte}

theorem length_blankFrom (hb : b.length = 32) (hu : used ≤ 32) : (blankFrom used b).length = 32 := by
  rw [blankFrom, List.length_append, List.length_take_of_le (by omega), List.length_replicate]
  omega

theorem getD_blankFrom (hb : b.length = 32) (hu : used ≤ 32) (j : Nat) :
    (blankFrom used b).getD j 0 = if j < used then b.getD j 0 else 0 := by
  have htake : (b.take used).length = used := List.length_take_of_le (by omega)
  unfold blankFrom
  split_ifs with hj
  · rw [List.getD_append _ _ _ _ (by omega)]
    simp only [List.getD_eq_getElem?_getD, List.getElem?_take_of_lt hj]
  · rw [List.getD_append_right _ _ _ _ (by omega), List.getD_eq_getElem?_getD,
      List.getElem?_getD_replicate_default_eq]

end BlankFrom

theorem zeroBeyond_concat (len : Nat) (l : List (List Byte)) (b : List Byte) :
    zeroBeyond len (l ++ [b]) = l ++ [blankFrom (len - 32 * (segmentCount len - 1)) b] := mapLast_concat _ l b

/-- A message's bytes stand as they were up to its length, and zeros follow. -/
theorem getD_flatten_zeroBeyond {bufs : List (List Byte)} {len : Nat} (h : FullBuffers bufs)
    (hk : bufs.length = segmentCount len) {i : Nat} (hi : i < 32 * bufs.length) :
    (zeroBeyond len bufs).flatten.getD i 0 = if i < len then bufs.flatten.getD i 0 else 0 := by
  have hcount : segmentCount len = (len + 31) / 32 := rfl
  rcases List.eq_nil_or_concat' bufs with rfl | ⟨l, b, rfl⟩
  · rw [List.length_nil] at hi
    omega
  rw [List.length_append, List.length_singleton] at hk hi
  rw [zeroBeyond_concat, show segmentCount len - 1 = l.length by omega]
  have hb : b.length = 32 := h b (by simp)
  have hl : FullBuffers l := fun x hx => h x (List.mem_append_left _ hx)
  have hu : len - 32 * l.length ≤ 32 := by omega
  have hfull : FullBuffers (l ++ [blankFrom (len - 32 * l.length) b]) := by
    intro x hx
    rcases List.mem_append.mp hx with hx | hx
    · exact hl x hx
    · rw [List.mem_singleton.mp hx, length_blankFrom hb hu]
  rw [hfull.getD_flatten, h.getD_flatten]
  rcases Nat.lt_or_ge (i / 32) l.length with hpos | hpos
  · rw [List.getD_append _ _ _ _ hpos, List.getD_append _ _ _ _ hpos, if_pos (by omega)]
  · have hlast : i / 32 = l.length := by omega
    have hin : i % 32 < len - 32 * l.length ↔ i < len := by omega
    rw [hlast, List.getD_append_right _ _ _ _ le_rfl, List.getD_append_right _ _ _ _ le_rfl, Nat.sub_self,
      List.getD_cons_zero, List.getD_cons_zero, getD_blankFrom hb hu]
    simp only [hin]

end Sys2Proof.Machine

open Sys2Proof Sys2Proof.Machine

/-- Settles O10: the three functions of a descriptor agree with the model's in each of its four states. -/
theorem flushCommandEffects : Obligations.FlushCommand := by
  refine ⟨fun c s hpin hs => ?_, fun c s hpin hs => ?_, fun ns s => by simp⟩
  · rw [exec_flush_unpinned c hpin, flushCommand_taken (s := endRead s) c hs]
    refine congrArg Host.Outcome.next (flushQueue_eq c (endRead s) (fun d => ?_) (fun d => ?_) (fun d => ?_))
    · cases hst : d.st <;> simp only [Descriptor.flushNotice, flushedNotice, hst]
    · cases hst : d.st <;> simp only [Descriptor.flushFrees, hst]
    · cases hst : d.st <;> simp only [Descriptor.flushed, hst]
  · rw [exec_flush_unpinned c hpin, flushCommand_refused (s := endRead s) c hs]
    rfl

/-- Settles O45: the five checks of a header in their order, and the bytes of the buffers after a word and at an end. -/
theorem messageTaken : Obligations.MessageTaken := by
  refine ⟨fun h tag len s => ?_, fun e k c tag s hi => ?_, fun c n q d s hi hq _ hbufs hfull => ?_,
    fun c n q d w s hi hq hn hfull => ?_⟩
  · have hcheck := admissionCheck_eq h len s
    simp only [inactive_iff, destinationOk_eq_false_iff] at hcheck
    refine ⟨fun h1 => headerTaken_refused ?_, fun h1 h2 => headerTaken_refused ?_,
      fun h1 h2 h3 => headerTaken_refused ?_, fun h1 h2 h3 h4 => headerTaken_refused ?_,
      fun h1 h2 h3 h4 h5 => headerTaken_refused ?_, fun h1 h2 h3 h4 h5 => ?_⟩
    · rw [hcheck, if_pos h1]
    · rw [hcheck, if_neg h1, if_pos h2]
    · rw [hcheck, if_neg h1, if_neg h2, if_pos h3]
    · rw [hcheck, if_neg h1, if_neg h2, if_neg h3, if_pos h4]
    · rw [hcheck, if_neg h1, if_neg h2, if_neg h3, if_neg h4]
      exact if_pos h5
    · have hnone : admissionCheck h len s = none := by
        rw [hcheck, if_neg h1, if_neg h2, if_neg h3, if_neg h4]
        exact if_neg h5
      exact ⟨newDescriptor h tag len, headerTaken_admitted hnone, rfl, rfl, rfl, rfl, rfl, rfl, rfl, rfl,
        List.length_replicate, rfl⟩
  · exact ⟨messageEnd_discarding e hi, fun w => payloadTaken_discarding w hi⟩
  · exact ⟨zeroBeyond d.len d.bufs, messageEnd_wellFormed hi hq, length_zeroBeyond _ _,
      fun i => getD_flatten_zeroBeyond hfull hbufs⟩
  · exact ⟨writeWord d.bufs (4 * n) (wordBytes w), payloadTaken_admitted w hi hq, length_writeWord _ _ _,
      FullBuffers.writeWord hfull (length_wordBytes w) hn, getD_flatten_writeWord hfull (length_wordBytes w) hn⟩
end

section
/-! SUPPORT. RAS written out case by case: a context aborted (R128, R129), an ABORT (R131), and a SEGMENT by the context
of its key (R123 to R127, R132). -/

namespace Sys2Proof.Machine

/-! ### A context aborted (R128, R129) -/

/-- A context has left the table, and its abort is counted (R128). -/
def contextClosed (why : AbortReason) (c : Context) (s : State) : State :=
  countEvent (abortCounter why) { s with ras := { s.ras with contexts := s.ras.contexts.erase c } }

/-- Without a record to deliver, every buffer of the context returns. -/
theorem abortContext_dropped {why : AbortReason} {s : State} (c : Context)
    (h : why = .senderAbort ∨ s.mgt.settings.damaged = false) :
    abortContext why c s = returnBuffers c.bufs.length (contextClosed why c s) := by
  unfold abortContext
  extract_lets closed
  split
  case h_1 status hstatus hdamaged =>
    rcases h with rfl | h
    · cases hstatus
    · exact absurd (h.symm.trans hdamaged) Bool.false_ne_true
  case h_2 => rfl

/-- With deliver-damaged set, the buffers filled so far are handed on and those never filled return. -/
theorem abortContext_delivered {why : AbortReason} {status : DeliveryStatus} {s : State} (c : Context)
    (hstatus : truncatedStatus why = some status) (hdamaged : s.mgt.settings.damaged = true) :
    abortContext why c s =
      handOff (contextRecord c (32 * c.next) status (c.bufs.take c.next))
        (returnBuffers (c.bufs.drop c.next).length (contextClosed why c s)) := by
  have hclosed : (contextClosed why c s).mgt.settings.damaged = true := hdamaged
  unfold abortContext
  extract_lets closed
  simp only [hstatus]
  split
  case h_1 status' hs _ =>
    cases hs
    rfl
  case h_2 hno => exact absurd hclosed (hno status rfl)

theorem nextState_staleTimerExpiry_of_due {t : Time} {src : Station} {cls : Class} {s : State} {c : Context}
    (hc : findContext src cls s = some c) (hdue : c.since + staleTimeout ≤ t) :
    nextState (.staleTimerExpiry t src cls) s = abortContext .stale c s := by
  rw [nextState_staleTimerExpiry, staleExpiry, hc]
  exact if_pos hdue

theorem nextState_staleTimerExpiry_of_not_due {t : Time} {src : Station} {cls : Class} {s : State}
    (h : ∀ c, findContext src cls s = some c → t < c.since + staleTimeout) :
    nextState (.staleTimerExpiry t src cls) s = s := by
  rw [nextState_staleTimerExpiry, staleExpiry]
  cases hc : findContext src cls s with
  | none => rfl
  | some c => exact if_neg (not_le.mpr (h c hc))

/-! ### An ABORT (R131) -/

section
variable {f : AbortFrame} {s : State} (hsrc : f.src ≠ ownNumber s)
include hsrc

theorem takeAbort_unknown (hc : findContext f.src f.cls s = none) : takeAbort f s = s := by
  rw [takeAbort, if_neg hsrc, hc]

theorem takeAbort_found {c : Context} (hc : findContext f.src f.cls s = some c) :
    takeAbort f s = if c.seq = f.seq then abortContext .senderAbort c s else s := by
  rw [takeAbort, if_neg hsrc, hc]

end

/-! ### A later SEGMENT (R126, R127) -/

/-- A context with the next segment stored at `t` (R126). -/
def Context.extended (t : Time) (f : SegmentFrame) (c : Context) : Context :=
  { c with bufs := c.bufs.set c.next f.payload, next := c.next + 1, since := t }

section
variable {t : Time} {f : SegmentFrame} {s : State} {c : Context} (hsrc : f.src ≠ ownNumber s) (hfirst : f.first = false)
include hsrc hfirst

theorem takeSegment_later : takeSegment t f s = laterSegment t f s := by
  rw [takeSegment, if_neg hsrc, hfirst]
  exact if_neg Bool.false_ne_true

theorem takeSegment_unknown (hc : findContext f.src f.cls s = none) : takeSegment t f s = s := by
  rw [takeSegment_later hsrc hfirst, laterSegment, hc]

theorem takeSegment_gap (hc : findContext f.src f.cls s = some c) (hn : continues c f = false) :
    takeSegment t f s = abortContext .gap c s := by
  simp only [takeSegment_later hsrc hfirst, laterSegment, hc, hn, Bool.false_eq_true, if_false]

theorem takeSegment_extends (hc : findContext f.src f.cls s = some c) (hn : continues c f = true)
    (hlast : f.last = false) :
    takeSegment t f s =
      { s with ras := { s.ras with
          contexts := s.ras.contexts.map (fun x => if x = c then c.extended t f else x) } } := by
  simp only [takeSegment_later hsrc hfirst, laterSegment, hc, hn, hlast, if_true, Bool.false_eq_true, if_false]
  rfl

theorem takeSegment_completes (hc : findContext f.src f.cls s = some c) (hn : continues c f = true)
    (hlast : f.last = true) :
    takeSegment t f s =
      handOff (contextRecord c c.len .complete (c.bufs.set c.next f.payload))
        { s with ras := { s.ras with contexts := s.ras.contexts.erase c } } := by
  simp only [takeSegment_later hsrc hfirst, laterSegment, hc, hn, hlast, if_true]
  rfl

end

/-! ### A First SEGMENT (R124, R125) -/

/-- The table before a First segment is taken: an open context of its key is aborted (R124). -/
def superseded (f : SegmentFrame) (s : State) : State :=
  match findContext f.src f.cls s with
  | some c => abortContext .superseded c s
  | none => s

@[simp] theorem superseded_settings (f : SegmentFrame) (s : State) :
    (superseded f s).mgt.settings = s.mgt.settings := by
  unfold superseded
  split <;> simp

/-- The buffers of a message whose First segment is taken: its own bytes, and the ones no segment has filled. -/
def firstBuffers (f : SegmentFrame) : List (List Byte) :=
  f.payload :: List.replicate (segmentCount f.len.toNat - 1) blankBuffer

/-- The context that a First segment opens at `t` (R121, R124). -/
def openedContext (t : Time) (f : SegmentFrame) : Context :=
  ⟨f.src, f.cls, f.seq, f.tag, f.dest, f.len.toNat, 1, firstBuffers f, t⟩

section
variable {t : Time} {f : SegmentFrame} {s : State}

theorem takeSegment_first (hsrc : f.src ≠ ownNumber s) (hfirst : f.first = true) :
    takeSegment t f s =
      if forThisStation (superseded f s) f.dest then openContext t f (superseded f s) else superseded f s := by
  rw [takeSegment, if_neg hsrc, if_pos hfirst]
  rfl

theorem openContext_full (h : 32 ≤ s.ras.contexts.length) : openContext t f s = countEvent .rxNoContext s :=
  if_pos h

variable (hopen : s.ras.contexts.length < 32)
include hopen

theorem openContext_noRoom (h : s.ras.free < (firstBuffers f).length) : openContext t f s = countEvent .rxNoRoom s :=
  (if_neg (not_le.mpr hopen)).trans (if_pos h)

variable (hroom : (firstBuffers f).length ≤ s.ras.free)
include hroom

theorem openContext_completes (hlast : f.last = true) :
    openContext t f s =
      handOff (contextRecord (openedContext t f) f.len.toNat .complete (firstBuffers f))
        { s with ras := { s.ras with free := s.ras.free - (firstBuffers f).length } } :=
  (if_neg (not_le.mpr hopen)).trans ((if_neg (not_lt.mpr hroom)).trans (if_pos hlast))

theorem openContext_opens (hlast : f.last = false) :
    openContext t f s =
      { s with ras :=
          ⟨s.ras.free - (firstBuffers f).length, s.ras.contexts ++ [openedContext t f]⟩ } :=
  (if_neg (not_le.mpr hopen)).trans ((if_neg (not_lt.mpr hroom)).trans (if_neg (by simp [hlast])))

end

end Sys2Proof.Machine

open Sys2Proof Sys2Proof.Machine

/-- Settles O47: the context of the key, what continues it, and the First segment's buffers. -/
theorem segmentReceived : Obligations.SegmentReceived := by
  intro t f s
  refine ⟨takeSegment_own, fun hsrc hfirst hc => takeSegment_unknown hsrc hfirst hc,
    fun c hsrc hfirst hc hn => ?_, fun c hsrc hfirst hc hseq hindex htag hdest hlen => ?_, fun hsrc hfirst => ?_⟩
  · exact takeSegment_gap hsrc hfirst hc (Bool.eq_false_iff.mpr (mt (continues_iff c f).mp hn))
  · have hn : continues c f = true := (continues_iff c f).mpr ⟨hseq, hindex, htag, hdest, hlen⟩
    exact ⟨takeSegment_extends hsrc hfirst hc hn, takeSegment_completes hsrc hfirst hc hn⟩
  · intro u forUs bufs
    have hu : superseded f s = u := rfl
    have hforUs : forThisStation u f.dest = true ↔ forUs := by
      rw [forThisStation_iff, ownNumber, ← hu, superseded_settings]
      rfl
    have taken (h : forUs) : takeSegment t f s = openContext t f u := by
      rw [takeSegment_first hsrc hfirst, hu, if_pos (hforUs.mpr h)]
    refine ⟨fun h => ?_, fun h hfull => ?_, fun h hopen hroom => ?_, fun h hopen hroom hlast => ?_,
      fun h hopen hroom hlast => ?_⟩
    · rw [takeSegment_first hsrc hfirst, hu, if_neg (mt hforUs.mp h)]
    · rw [taken h, openContext_full hfull]
    · rw [taken h]
      exact openContext_noRoom hopen hroom
    · rw [taken h]
      exact openContext_completes hopen hroom hlast
    · rw [taken h]
      exact openContext_opens hopen hroom hlast

/-- Settles O48: the timer's limit, and the record that a reason of an abort leaves to be delivered. -/
theorem contextAborted : Obligations.ContextAborted := by
  refine ⟨fun t src cls s c hc hdue => ?_, fun t src cls s h => ?_, fun why c s _ => ?_⟩
  · rw [exec_eq_next, nextState_staleTimerExpiry_of_due hc hdue]
  · rw [exec_eq_next, nextState_staleTimerExpiry_of_not_due h]
  · intro counted k
    have hclosed : contextClosed why c s = counted k := by cases why <;> rfl
    refine ⟨fun h => ?_, fun status hmem hdamaged => ?_⟩
    · rw [abortContext_dropped c h, hclosed]
    · have hstatus : truncatedStatus why = some status := by
        simp only [List.mem_cons, Prod.mk.injEq, List.not_mem_nil, or_false] at hmem
        rcases hmem with ⟨rfl, rfl⟩ | ⟨rfl, rfl⟩ | ⟨rfl, rfl⟩ | ⟨rfl, rfl⟩ <;> rfl
      rw [abortContext_delivered c hstatus hdamaged, hclosed, List.length_drop]
      rfl

/-- Settles O49: an ABORT ends the context of its key whose sequence it carries, as the reason SenderAbort does. -/
theorem abortReceived : Obligations.AbortReceived := by
  refine fun f s => ⟨takeAbort_own, takeAbort_unknown, fun c hsrc hc hseq => ?_, fun c hsrc hc hseq => ?_⟩
  · rw [takeAbort_found hsrc hc, if_neg hseq]
  · rw [takeAbort_found hsrc hc, if_pos hseq, abortContext_dropped c (.inl rfl)]
    rfl
end

section
/-! SUPPORT. Steering and the offer of a record to a delivery queue (R137, R139, R177). -/

namespace Sys2Proof.Machine

/-! ### An entry matches (R137, R177) -/

/-- Two tags agree under a mask where they agree in the bits that the mask holds. -/
theorem and_eq_and_iff (a b mask : Byte) :
    a &&& mask = b &&& mask ↔ ∀ i : Nat, i < 8 → mask.getLsbD i = true → a.getLsbD i = b.getLsbD i := by
  rw [BitVec.eq_of_getLsbD_eq_iff]
  refine forall₂_congr fun i _ => ?_
  rw [BitVec.getLsbD_and, BitVec.getLsbD_and]
  cases mask.getLsbD i <;> simp

theorem SteerEntry.matches_iff (e : SteerEntry) (cls : Class) (src : Station) (tag : Byte) :
    e.matches cls src tag = true ↔
      e.valid = true ∧ e.action.toNat ≤ 4 ∧ (e.clsM.toNat = 4 ∨ e.clsM.toNat = cls.val) ∧
        (e.srcM.toNat = 16 ∨ e.srcM.toNat = src.val) ∧ tag &&& e.tagMask = e.tagV &&& e.tagMask := by
  simp only [SteerEntry.matches, Bool.and_eq_true, Bool.or_eq_true, decide_eq_true_eq, beq_iff_eq, and_assoc]

/-! ### What steering decides (R137) -/

section
variable {entries pre post : List SteerEntry} {e : SteerEntry} {cls : Class} {src : Station} {tag : Byte}

theorem steer_of_no_match (h : ∀ e ∈ entries, e.matches cls src tag = false) :
    steer entries cls src tag = some cls := by
  rw [steer, List.find?_eq_none.mpr fun e he => by simp [h e he]]

theorem find?_match_of_first (hpre : ∀ x ∈ pre, x.matches cls src tag = false) (he : e.matches cls src tag = true) :
    (pre ++ e :: post).find? (fun x => x.matches cls src tag) = some e :=
  List.find?_eq_some_iff_append.mpr ⟨he, pre, post, rfl, fun x hx => by simp [hpre x hx]⟩

theorem steer_of_first_queue (hpre : ∀ x ∈ pre, x.matches cls src tag = false) (he : e.matches cls src tag = true)
    {q : Class} (hq : e.action.toNat = q.val) : steer (pre ++ e :: post) cls src tag = some q := by
  simp only [steer, find?_match_of_first hpre he, hq]
  match q with
  | 0 => rfl
  | 1 => rfl
  | 2 => rfl
  | 3 => rfl

theorem steer_of_first_discard (hpre : ∀ x ∈ pre, x.matches cls src tag = false) (he : e.matches cls src tag = true)
    (h4 : e.action.toNat = 4) : steer (pre ++ e :: post) cls src tag = none := by
  simp only [steer, find?_match_of_first hpre he, h4]

end

/-! ### What becomes of a record handed to DLV -/

section
variable {r : DeliveredRecord} {s : State}

theorem handOff_steered {q : Class} (h : steer s.mgt.settings.steer r.cls r.src r.tag = some q) :
    handOff r s = offerRecord q r s := by
  rw [handOff, h]

theorem handOff_discarded (h : steer s.mgt.settings.steer r.cls r.src r.tag = none) :
    handOff r s = countEvent .steerDiscard (returnBuffers r.bufs.length s) := by
  rw [handOff, h]

end

end Sys2Proof.Machine

open Sys2Proof Sys2Proof.Machine

/-- Settles O50: the bits that a match compares, the first entry that matches, and the offer to the queue it names. -/
theorem steeringAndOffer : Obligations.SteeringAndOffer := by
  refine ⟨fun e cls src tag => ?_, fun r s => ?_⟩
  · rw [SteerEntry.matches_iff, and_eq_and_iff]
  · intro offer
    have hoffer (q : Sys2Proof.Class) : offerRecord q r s = offer q := rfl
    refine ⟨fun hnone => ?_, fun pre e post hsteer hpre he => ⟨fun q hq => ?_, fun h4 => ?_⟩⟩
    · rw [handOff_steered (steer_of_no_match hnone), hoffer]
    · rw [handOff_steered (hsteer ▸ steer_of_first_queue hpre he hq), hoffer]
    · exact handOff_discarded (hsteer ▸ steer_of_first_discard hpre he h4)
end

section
/-! SUPPORT. The reassembly table as a law of its contexts one by one and in pairs, and what a SEGMENT that passes the
field checks makes of it (R4, R121, R124, R126). -/

namespace Sys2Proof.Machine

/-- Two contexts have different keys (R121). -/
def OtherKey (c d : Context) : Prop := ¬(c.src = d.src ∧ c.cls = d.cls)

theorem OtherKey.symm {c d : Context} (h : OtherKey c d) : OtherKey d c :=
  fun ⟨hsrc, hcls⟩ => h ⟨hsrc.symm, hcls.symm⟩

/-- A context as R121 gives it, in a station of number `own`. -/
def Context.lawful (own : Station) (c : Context) : Prop :=
  c.src ≠ own ∧ c.len ≤ 1024 ∧ c.bufs.length = segmentCount c.len ∧ 1 ≤ c.next ∧ c.next < c.bufs.length

theorem contextLaw_iff (s : State) :
    ContextLaw s ↔ s.ras.contexts.Pairwise OtherKey ∧ ∀ c ∈ s.ras.contexts, c.lawful (ownNumber s) := Iff.rfl

theorem ownNumber_of_settings {s t : State} (h : t.mgt.settings = s.mgt.settings) : ownNumber t = ownNumber s := by
  rw [ownNumber, ownNumber, h]

theorem contextLaw_of_empty {s : State} (h : s.ras.contexts = []) : ContextLaw s := by
  rw [contextLaw_iff, h]
  exact ⟨.nil, by simp⟩

namespace ContextLaw

/-- Contexts that leave the table leave a lawful one. -/
theorem of_sublist {s t : State} (h : ContextLaw s) (hcontexts : t.ras.contexts.Sublist s.ras.contexts)
    (hsettings : t.mgt.settings = s.mgt.settings) : ContextLaw t := by
  obtain ⟨hkeys, hlawful⟩ := h
  refine ⟨hkeys.sublist hcontexts, fun c hc => ?_⟩
  rw [ownNumber_of_settings hsettings]
  exact hlawful c (hcontexts.subset hc)

theorem of_eq {s t : State} (h : ContextLaw s) (hcontexts : t.ras.contexts = s.ras.contexts)
    (hsettings : t.mgt.settings = s.mgt.settings) : ContextLaw t :=
  h.of_sublist (hcontexts ▸ .refl _) hsettings

theorem ite_of {p : Prop} [Decidable p] {t u : State} (ht : ContextLaw t) (hu : ContextLaw u) :
    ContextLaw (if p then t else u) :=
  iteInduction (fun _ => ht) fun _ => hu

end ContextLaw

/-! ### What the field checks give a context (R4) -/

/-- The field checks of R4 give the segments of a message their places: the Last one, and no other, ends it. -/
theorem more_of_not_last {f : SegmentFrame} {p : Profile} {part : CyclePart}
    (hfields : fieldsOk p part (.segment f) = true) (hlast : f.last = false) :
    f.index.toNat + 1 ≠ segmentCount f.len.toNat := by
  obtain ⟨-, -, -, -, -, hend, -⟩ := (fieldsOk_segment_iff _ _ _).mp hfields
  exact mt hend.mpr (Bool.eq_false_iff.mp hlast)

/-- A First segment that is not the Last opens a lawful context: its message has at least two segments. -/
theorem openedContext_lawful {own : Station} {t : Time} {f : SegmentFrame} {p : Profile} {part : CyclePart}
    (hfields : fieldsOk p part (.segment f) = true) (hsrc : f.src ≠ own) (hfirst : f.first = true)
    (hlast : f.last = false) : (openedContext t f).lawful own := by
  obtain ⟨-, -, hlen, hindex, hzero, -, -⟩ := (fieldsOk_segment_iff _ _ _).mp hfields
  have hindex0 : f.index.toNat = 0 := hzero.mp hfirst
  have hmore := more_of_not_last hfields hlast
  have hbufs : (firstBuffers f).length = segmentCount f.len.toNat := by
    simp only [firstBuffers, List.length_cons, List.length_replicate]
    omega
  refine ⟨hsrc, hlen, hbufs, le_rfl, ?_⟩
  simp only [openedContext, hbufs]
  omega

/-- A segment that continues a context and is not the Last leaves a buffer to be filled. -/
theorem extended_lawful {own : Station} {t : Time} {f : SegmentFrame} {c : Context} {p : Profile} {part : CyclePart}
    (hc : c.lawful own) (hfields : fieldsOk p part (.segment f) = true) (hcontinues : continues c f = true)
    (hlast : f.last = false) : (c.extended t f).lawful own := by
  obtain ⟨hsrc, hlen, hbufs, -, hnext⟩ := hc
  obtain ⟨-, hindex, -, -, hsame⟩ := (continues_iff c f).mp hcontinues
  have hmore := more_of_not_last hfields hlast
  have hset : (c.bufs.set c.next f.payload).length = segmentCount c.len := by rw [List.length_set, hbufs]
  refine ⟨hsrc, hlen, hset, Nat.le_add_left _ _, ?_⟩
  simp only [Context.extended, hset]
  rw [hindex, hsame] at hmore
  omega

/-! ### A context leaves the table -/

section
variable {s : State} (h : ContextLaw s)
include h

theorem ContextLaw.after_abortContext {why : AbortReason} {c : Context} : ContextLaw (abortContext why c s) :=
  h.of_sublist (by simp [List.erase_sublist]) (by simp)

theorem ContextLaw.after_takeAbort {f : AbortFrame} : ContextLaw (takeAbort f s) := by
  unfold takeAbort
  split
  · exact h
  · split
    · exact h
    · exact .ite_of h.after_abortContext h

theorem ContextLaw.after_staleExpiry {t : Time} {src : Station} {cls : Class} :
    ContextLaw (staleExpiry t src cls s) := by
  unfold staleExpiry
  split
  · exact h
  · exact .ite_of h.after_abortContext h

theorem ContextLaw.after_removeSources {removed : List Station} : ContextLaw (removeSources removed s) := by
  refine h.of_sublist ?_ (by simp)
  rw [removeSources, abortContexts, abortEach_contexts, ← List.diff_eq_foldl]
  exact List.diff_sublist _ _

/-- Once the context of a key has left the table, no other has the key. -/
theorem ContextLaw.otherKey_of_mem_erase {c d : Context} (hc : c ∈ s.ras.contexts) (hd : d ∈ s.ras.contexts.erase c) :
    OtherKey d c := by
  obtain ⟨hkeys, -⟩ := (contextLaw_iff s).mp h
  have hnodup : s.ras.contexts.Nodup := hkeys.imp fun hother e => hother ⟨congrArg _ e, congrArg _ e⟩
  obtain ⟨hne, hd⟩ := hnodup.mem_erase_iff.mp hd
  have : Std.Symm OtherKey := ⟨fun _ _ => OtherKey.symm⟩
  exact hkeys.forall hd hc hne

/-! ### A First SEGMENT -/

theorem ContextLaw.after_superseded {f : SegmentFrame} : ContextLaw (superseded f s) := by
  unfold superseded
  split
  · exact h.after_abortContext
  · exact h

/-- The key of a First segment is free once the context it supersedes is gone. -/
theorem ContextLaw.key_free_of_superseded {f : SegmentFrame} {d : Context} (hd : d ∈ (superseded f s).ras.contexts) :
    ¬(d.src = f.src ∧ d.cls = f.cls) := by
  unfold superseded at hd
  split at hd
  case h_1 c hc =>
    obtain ⟨hmem, hsrc, hcls⟩ := findContext_eq_some hc
    rw [abortContext_contexts] at hd
    rw [← hsrc, ← hcls]
    exact h.otherKey_of_mem_erase hmem hd
  case h_2 hnone => exact findContext_eq_none.mp hnone d hd

theorem ContextLaw.after_openContext {t : Time} {f : SegmentFrame} {p : Profile} {part : CyclePart}
    (hfields : fieldsOk p part (.segment f) = true) (hsrc : f.src ≠ ownNumber s) (hfirst : f.first = true)
    (hkey : ∀ d ∈ s.ras.contexts, ¬(d.src = f.src ∧ d.cls = f.cls)) : ContextLaw (openContext t f s) := by
  by_cases hfull : 32 ≤ s.ras.contexts.length
  · rw [openContext_full hfull]
    exact h
  have hopen : s.ras.contexts.length < 32 := not_le.mp hfull
  by_cases hnone : s.ras.free < (firstBuffers f).length
  · rw [openContext_noRoom hopen hnone]
    exact h
  have hroom : (firstBuffers f).length ≤ s.ras.free := not_lt.mp hnone
  cases hlast : f.last with
  | true =>
    rw [openContext_completes hopen hroom hlast]
    exact h.of_eq (by simp) (by simp)
  | false =>
    rw [openContext_opens hopen hroom hlast]
    obtain ⟨hkeys, hlawful⟩ := h
    refine ⟨List.pairwise_append.mpr ⟨hkeys, List.pairwise_singleton _ _, fun d hd c hc => ?_⟩, fun d hd => ?_⟩
    · rw [List.mem_singleton.mp hc]
      exact hkey d hd
    · rcases List.mem_append.mp hd with hd | hd
      · exact hlawful d hd
      · rw [List.mem_singleton.mp hd]
        exact openedContext_lawful hfields hsrc hfirst hlast

/-! ### A later SEGMENT -/

/-- A context replaced by a lawful one of its key. -/
theorem ContextLaw.after_replace {c c' : Context} (hsrc : c'.src = c.src) (hcls : c'.cls = c.cls)
    (hc' : c'.lawful (ownNumber s)) :
    ContextLaw { s with ras := { s.ras with contexts := s.ras.contexts.map (fun x => if x = c then c' else x) } } := by
  obtain ⟨hkeys, hlawful⟩ := h
  have hkey (x : Context) : (if x = c then c' else x).src = x.src ∧ (if x = c then c' else x).cls = x.cls := by
    split
    case isTrue hx => exact hx ▸ ⟨hsrc, hcls⟩
    case isFalse => exact ⟨rfl, rfl⟩
  refine ⟨List.pairwise_map.mpr (hkeys.imp fun {a b} hother => ?_), fun d hd => ?_⟩
  · obtain ⟨hasrc, hacls⟩ := hkey a
    obtain ⟨hbsrc, hbcls⟩ := hkey b
    rw [hasrc, hacls, hbsrc, hbcls]
    exact hother
  · obtain ⟨x, hx, rfl⟩ := List.mem_map.mp hd
    exact iteInduction (motive := Context.lawful (ownNumber s)) (fun _ => hc') fun _ => hlawful x hx

/-- A SEGMENT that passes the field checks of R4 keeps the table lawful (R123 to R127). -/
theorem ContextLaw.after_takeSegment {t : Time} {f : SegmentFrame} {p : Profile} {part : CyclePart}
    (hfields : fieldsOk p part (.segment f) = true) : ContextLaw (takeSegment t f s) := by
  by_cases hsrc : f.src = ownNumber s
  · rw [takeSegment_own hsrc]
    exact h
  cases hfirst : f.first with
  | true =>
    rw [takeSegment_first hsrc hfirst]
    have hown : ownNumber (superseded f s) = ownNumber s := ownNumber_of_settings (by simp)
    exact .ite_of (h.after_superseded.after_openContext hfields (hown ▸ hsrc) hfirst fun _ => h.key_free_of_superseded)
      h.after_superseded
  | false =>
    cases hc : findContext f.src f.cls s with
    | none =>
      rw [takeSegment_unknown hsrc hfirst hc]
      exact h
    | some c =>
      cases hcontinues : continues c f with
      | false =>
        rw [takeSegment_gap hsrc hfirst hc hcontinues]
        exact h.after_abortContext
      | true =>
        cases hlast : f.last with
        | true =>
          rw [takeSegment_completes hsrc hfirst hc hcontinues hlast]
          exact h.of_sublist (by simp [List.erase_sublist]) (by simp)
        | false =>
          rw [takeSegment_extends hsrc hfirst hc hcontinues hlast]
          obtain ⟨hmem, -, -⟩ := findContext_eq_some hc
          obtain ⟨-, hlawful⟩ := (contextLaw_iff s).mp h
          exact h.after_replace rfl rfl (extended_lawful (hlawful c hmem) hfields hcontinues hlast)

end

end Sys2Proof.Machine
end

section
/-! SUPPORT. The reassembly table through the operations of the line and through the commands: a session end empties it,
a removal thins it, and a SEGMENT reaches it only once it has passed the field checks (R4, R69, R121, R134). The
walk of `BufferRel` does not serve here: it asks its relation of every SEGMENT, whatever the fields, and one that fails
the checks can open a context without a buffer left to fill. -/

namespace Sys2Proof.Machine

/-! ### Entries into station states -/

theorem endSession_contextLaw (s : State) : ContextLaw (endSession s) := by
  refine contextLaw_of_empty ?_
  unfold endSession
  simp

theorem enterStopped_contextLaw (s : State) : ContextLaw (enterStopped s) := endSession_contextLaw _

section
variable {s : State} (h : ContextLaw s)
include h

theorem ContextLaw.after_enterHalted {cause : HaltCause} : ContextLaw (enterHalted cause s) :=
  .ite_of h (endSession_contextLaw _)

theorem ContextLaw.after_enterListen {t : Time} : ContextLaw (enterListen t s) :=
  .ite_of (enterStopped_contextLaw s) (h.of_eq (by simp) (by simp))

theorem ContextLaw.after_stepLoss {t : Time} : ContextLaw (stepLoss t s) :=
  (h.of_eq (t := countEvent .stepLosses (raiseEvent .stepLoss s)) rfl rfl).after_enterListen

theorem ContextLaw.after_startEchoFailed {t : Time} : ContextLaw (startEchoFailed t s) :=
  (h.of_eq (t := abandonEcho (loseTiming s)) (by simp) (by simp)).after_enterListen

/-! ### TABLEs, and the end of the announcement phase -/

theorem ContextLaw.after_loadTable {f : TableFrame} : ContextLaw (loadTable f s) := by
  unfold loadTable
  extract_lets after removed own ssu written counted
  have hwritten : ContextLaw written := h.of_eq rfl rfl
  have hcounted : ContextLaw counted := hwritten.after_removeSources.of_eq rfl rfl
  exact hcounted.of_eq rfl rfl

theorem ContextLaw.after_takeTable {f : TableFrame} : ContextLaw (takeTable f s) :=
  .ite_of (.ite_of h.after_loadTable (h.of_eq rfl rfl)) h

theorem ContextLaw.after_commit {o : Announcement} : ContextLaw (commit o s) := by
  rw [commit_eq]
  exact (h.of_eq (t := commitFormed o s) rfl rfl).after_removeSources

theorem ContextLaw.after_verdict {o : Announcement} : ContextLaw (verdict o s) := by
  unfold verdict
  extract_lets cyc committed inStep inStepCyc kept outOfStep outOfStepCyc
  have hcommitted : ContextLaw committed := ContextLaw.after_commit (s := outcomeCommitted o s) (h.of_eq rfl rfl)
  have hkept : ContextLaw kept := h.of_eq rfl rfl
  refine .ite_of (.ite_of (hcommitted.of_eq ?_ ?_) hcommitted) (.ite_of (hkept.of_eq ?_ ?_) hkept)
  · simp [inStep]
  · simp [inStep]
  · simp [outOfStep]
  · simp [outOfStep]

theorem ContextLaw.after_endAnnouncement {t : Time} : ContextLaw (endAnnouncement t s) := by
  unfold endAnnouncement
  extract_lets decided
  have hdecided : ContextLaw decided :=
    .ite_of (.ite_of (h.of_eq (by simp) (by simp)) h) (.ite_of h.after_verdict h)
  exact hdecided.of_eq (by simp) (by simp)

/-! ### The cycle boundary -/

theorem ContextLaw.after_joinCycleEnds {t : Time} : ContextLaw (boundaryStep.joinCycleEnds t s) := by
  unfold boundaryStep.joinCycleEnds
  extract_lets cyc counted countedCyc attempted
  have hattempted : ContextLaw attempted := h.of_eq rfl rfl
  exact .ite_of (.ite_of hattempted.after_enterHalted hattempted.after_enterListen) (h.of_eq rfl rfl)

theorem ContextLaw.after_boundaryStep {t : Time} : ContextLaw (boundaryStep t s) := by
  have hmember : ContextLaw (boundaryStep.settleMember s) := h.of_eq (by simp) (by simp)
  have hnotMember : ContextLaw (boundaryStep.settleNotMember s) := h.of_eq (by simp) (by simp)
  unfold boundaryStep
  split
  · exact hmember
  · exact hmember
  · exact hmember
  · exact hnotMember
  · exact hnotMember
  · refine ContextLaw.after_joinCycleEnds ?_
    exact h.of_eq rfl rfl
  · exact h.after_joinCycleEnds
  · exact h.of_eq (by simp) (by simp)
  · extract_lets cyc counted
    have hcounted : ContextLaw counted := h.of_eq rfl rfl
    exact .ite_of hcounted.after_stepLoss hcounted
  · exact enterStopped_contextLaw s
  all_goals exact h

theorem ContextLaw.after_takeBoundary {t : Time} : ContextLaw (takeBoundary t s) :=
  ContextLaw.after_boundaryStep (h.of_eq (t := clearCycle s) (by simp) (by simp))

/-! ### BIDs and STARTs -/

theorem ContextLaw.after_compareProfile {check : Byte} : ContextLaw (compareProfile check s) :=
  .ite_of (.ite_of (h.of_eq rfl rfl) h.after_enterHalted) h

/-- The profile and the number of a BID or START (R29, R30). -/
theorem ContextLaw.after_judgeStation {check : Byte} {st : Station} {own : Bool} :
    ContextLaw (checkDuplicate st own (compareProfile check s)) :=
  have hcompared : ContextLaw (compareProfile check s) := h.after_compareProfile
  .ite_of hcompared.after_enterHalted hcompared

theorem ContextLaw.after_countEcho {passed : Bool} : ContextLaw (countEcho passed s) := by
  unfold countEcho
  extract_lets heard counted
  have hcounted : ContextLaw counted := h.of_eq rfl rfl
  exact .ite_of (.ite_of (h.of_eq rfl rfl) (.ite_of hcounted.after_enterHalted hcounted)) h

/-! ### Slot reports -/

theorem ContextLaw.after_enterBidReport {k : Nat} {own : Option Frame} {passed : Bool} {c : SlotClass} :
    ContextLaw (enterBidReport k own passed c s) := by
  have left {u : State} (hu : ContextLaw u) : ContextLaw (leaveAfterBid own u) := hu.of_eq (by simp) (by simp)
  unfold enterBidReport
  split
  · exact h.of_eq rfl rfl
  case h_2 f r =>
    extract_lets entered blinded counted
    have hblinded : ContextLaw blinded := h.of_eq (by simp [blinded, entered]) (by simp [blinded, entered])
    have hcounted : ContextLaw counted := .ite_of hblinded.after_countEcho hblinded
    exact left hcounted.after_judgeStation
  case h_3 =>
    extract_lets entered blinded
    have hentered : ContextLaw entered := h.of_eq rfl rfl
    have hblinded : ContextLaw blinded := .ite_of hentered (hentered.of_eq (by simp) (by simp))
    exact left (.ite_of hblinded.after_countEcho hblinded)

theorem ContextLaw.after_endBidSlot {k : Nat} {t : Time} : ContextLaw (endBidSlot k t s) :=
  .ite_of h (.ite_of (h.of_eq rfl rfl) h.after_endAnnouncement)

theorem ContextLaw.after_bidSlotReport {k : Nat} {a : Time} {line : SpanLine} :
    ContextLaw (bidSlotReport k a line s) := by
  have hdropped : ContextLaw (dropSlotEcho s) := h.of_eq rfl rfl
  exact ContextLaw.after_endBidSlot (.ite_of hdropped.after_enterBidReport hdropped)

/-- A data-phase frame handed on has passed the field checks. -/
theorem ContextLaw.after_handDataFrame {t : Time} {f : Frame} {p : Profile} {part : CyclePart}
    (hfields : fieldsOk p part f = true) : ContextLaw (handDataFrame t f s) := by
  cases f with
  | segment g => exact h.after_takeSegment hfields
  | abort g => exact h.after_takeAbort
  | table g => exact h.after_takeTable
  | empty g => exact h
  | start st check => exact h
  | bid g => exact h

theorem ContextLaw.after_dataSlotReport {isOpen : Bool} {i : Nat} {d : Time} {line : SpanLine} :
    ContextLaw (dataSlotReport isOpen i d line s) := by
  unfold dataSlotReport
  extract_lets own nominal heard block spanEnd next part c passed
  have hpassed : ContextLaw passed := h.of_eq rfl rfl
  cases hclass : c with
  | silent => exact hpassed
  | damaged => exact hpassed.of_eq rfl rfl
  | valid f r =>
    obtain ⟨-, hjudged, -, -⟩ := (classifySlot_eq_valid _ _ _ _ _ _ _ _).mp hclass
    obtain ⟨-, -, hfields⟩ := (judgeBits_eq_some _ _ _ _).mp hjudged
    have hfixed : ContextLaw (fixEndSlotted i next f r passed) := hpassed.of_eq rfl rfl
    exact .ite_of hfixed (hfixed.after_handDataFrame hfields)

theorem ContextLaw.after_slotReport {line : SpanLine} : ContextLaw (slotReport line s) := by
  unfold slotReport
  refine .ite_of h ?_
  split
  · exact .ite_of h (h.of_eq (by simp) (by simp))
  · exact h.after_bidSlotReport
  · exact .ite_of h.after_dataSlotReport h
  · exact h.after_dataSlotReport
  · exact h

/-! ### Unslotted receptions -/

theorem ContextLaw.after_beginCycleByBid {own : Bool} {f : BidFrame} {r : Reception} :
    ContextLaw (beginCycleByBid own f r s) := by
  unfold beginCycleByBid
  extract_lets a cyc timed begun entered blinded counted
  have htimed : ContextLaw timed := h.of_eq rfl rfl
  have hbegun : ContextLaw begun := .ite_of (htimed.of_eq (by simp) (by simp)) htimed.after_takeBoundary
  have hblinded : ContextLaw blinded := hbegun.of_eq (by simp [blinded, entered]) (by simp [blinded, entered])
  have hcounted : ContextLaw counted := .ite_of hblinded.after_countEcho hblinded
  exact .ite_of hbegun hcounted.after_judgeStation

/-- A frame heard unslotted has passed the field checks. -/
theorem ContextLaw.after_takeUnslotted {own : Bool} {f : Frame} {r : Reception} {p : Profile} {part : CyclePart}
    (hfields : fieldsOk p part f = true) : ContextLaw (takeUnslotted own f r s) := by
  have hfixed (g : Frame) : ContextLaw (fixEndUnslotted g r s) := h.of_eq (by simp) (by simp)
  cases f with
  | bid g => exact h.after_beginCycleByBid
  | start st check => exact .ite_of h (ContextLaw.after_judgeStation (h.of_eq (by simp) (by simp)))
  | segment g => exact (hfixed _).after_takeSegment hfields
  | abort g => exact (hfixed _).after_takeAbort
  | empty g => exact hfixed _
  | table g => exact (hfixed _).after_takeTable

theorem ContextLaw.after_takeReception {own f : Option Frame} {r : Reception} {p : Profile} {part : CyclePart}
    {bits : List Bool} (hf : judgeBits p part bits = f) : ContextLaw (takeReception own f r s) := by
  cases f with
  | none => exact h.of_eq rfl rfl
  | some g =>
    obtain ⟨-, -, hfields⟩ := (judgeBits_eq_some _ _ _ _).mp hf
    exact h.after_takeUnslotted hfields

theorem ContextLaw.after_judgeStartEcho {e : EchoWatch} {f : Option Frame} {r : Reception} :
    ContextLaw (judgeStartEcho e f r s) := by
  unfold judgeStartEcho
  extract_lets passed counted lif judged
  have hcounted : ContextLaw counted := .ite_of (h.of_eq rfl rfl) h
  have hjudged : ContextLaw judged := hcounted.of_eq rfl rfl
  refine .ite_of (hcounted.of_eq rfl rfl) (.ite_of (.ite_of (hjudged.of_eq rfl rfl) hjudged) ?_)
  exact hjudged.after_startEchoFailed

theorem ContextLaw.after_unslottedReception {r : Reception} : ContextLaw (unslottedReception r s) := by
  unfold unslottedReception
  split
  · exact h
  · exact h.of_eq (by simp) (by simp)
  · refine .ite_of h ?_
    split
    · exact h.after_judgeStartEcho
    · have hdropped : ContextLaw (dropSlotEcho s) := h.of_eq rfl rfl
      exact .ite_of (.ite_of (hdropped.after_takeReception rfl) (h.after_takeReception rfl)) h

/-! ### Timers and the end of a transmission -/

theorem ContextLaw.after_carrierRises {t : Time} : ContextLaw (carrierRises t s) := by
  unfold carrierRises
  extract_lets pins lif risen
  have hrisen : ContextLaw risen := h.of_eq rfl rfl
  exact .ite_of hrisen.after_enterListen (.ite_of hrisen (hrisen.of_eq rfl rfl))

theorem ContextLaw.after_settleStartEcho {t : Time} : ContextLaw (settleStartEcho t s) := by
  unfold settleStartEcho
  split
  · exact h
  · extract_lets lif done
    have hdone : ContextLaw done := h.of_eq rfl rfl
    split
    · exact hdone
    · exact hdone.after_startEchoFailed
    · exact .ite_of h hdone.after_startEchoFailed

theorem ContextLaw.after_afterTransmission {t : Time} {f : Frame} : ContextLaw (afterTransmission t f s) := by
  unfold afterTransmission
  extract_lets counted
  have hcounted : ContextLaw counted := .ite_of (h.of_eq rfl rfl) h
  have hfounded : ContextLaw (foundLine t counted) := hcounted.of_eq (by simp) (by simp)
  exact .ite_of (.ite_of (hcounted.of_eq rfl rfl) hcounted)
    (.ite_of hfounded.after_settleStartEcho (.ite_of (hcounted.of_eq rfl rfl) hcounted))

theorem ContextLaw.after_lineLoss {t : Time} : ContextLaw (lineLoss t s) := by
  unfold lineLoss
  split
  · exact h.after_stepLoss
  · exact h.after_stepLoss
  · exact h.after_stepLoss
  · exact h.after_stepLoss
  · exact enterStopped_contextLaw s
  all_goals exact h

/-! ### The management port -/

theorem ContextLaw.after_joinCommand {t : Time} : ContextLaw (joinCommand t s) := by
  refine .ite_of (.ite_of (.after_enterListen ?_) (h.of_eq rfl rfl)) (h.of_eq rfl rfl)
  exact h.of_eq rfl rfl

theorem ContextLaw.after_leaveCommand : ContextLaw (leaveCommand s) := by
  unfold leaveCommand
  split
  case h_5 => exact enterStopped_contextLaw s
  case h_6 => exact enterStopped_contextLaw s
  all_goals exact h.of_eq rfl rfl

/-- A setting is stored in CONFIG alone, where the table is empty (R134, R166). -/
theorem ContextLaw.after_writeRegister (hs : SessionLaw s) {t : Time} {addr : BitVec 7} {v : Half}
    (hc : isReset (.registerWrite t addr v) = false) : ContextLaw (writeRegister t addr v s) := by
  rcases writeRegister_cases t addr v s with
    ⟨-, e⟩ | e | ⟨c, e⟩ | ⟨hreset, -⟩ | e | ⟨-, e⟩ | ⟨-, hconfig, e⟩ | e
  · exact e ▸ h.after_joinCommand
  · exact e ▸ h.after_leaveCommand
  · exact e ▸ h.of_eq (by simp) (by simp)
  · exact absurd (hreset.symm.trans hc) (by decide)
  · exact e ▸ h.of_eq rfl rfl
  · exact e ▸ h.of_eq rfl rfl
  · obtain ⟨-, hcontexts, -⟩ := hs (by rw [hconfig]; rfl)
    exact e ▸ contextLaw_of_empty hcontexts
  · exact e.symm ▸ h

end

/-! ### Every command -/

/-- A reset that is taken empties the table (R23, R135). -/
theorem nextState_contextLaw_of_reset {c : Instr} {s : State} (hc : isReset c = true) (h : ContextLaw s) :
    ContextLaw (nextState c s) := by
  rcases nextState_reset_held (s := s) hc with e | ⟨p, f, l, -, -, -, e⟩
  · exact e.symm ▸ h
  · simp only [held, Prod.mk.injEq] at e
    obtain ⟨-, hras, -, -, -⟩ := e
    exact contextLaw_of_empty (by rw [hras]; rfl)

/-- Every command keeps the reassembly table lawful. -/
theorem nextState_contextLaw (c : Instr) {s : State} (hs : SessionLaw s) (h : ContextLaw s) :
    ContextLaw (nextState c s) := by
  have hread : ContextLaw (endRead s) := h.of_eq rfl rfl
  cases hc : isReset c with
  | true => exact nextState_contextLaw_of_reset hc h
  | false =>
    have hframe := commandFrames.2 c s (nextState c s) (exec_eq_next c s)
    cases c with
    | powerOn => cases hc
    | resetPinAssert => cases hc
    | softReset => cases hc
    | resetPinRelease => exact h.of_eq rfl rfl
    | cleanUpComplete => exact .ite_of h (h.of_eq rfl rfl)
    | join t => exact .ite_of h hread.after_joinCommand
    | leave => exact .ite_of h hread.after_leaveCommand
    | flush c => exact .ite_of h (hread.of_eq (by simp) (by simp))
    | unknownCommand code => exact .ite_of h (.ite_of (hread.of_eq rfl rfl) h)
    | registerWrite t addr v => exact .ite_of h (hread.after_writeRegister hs hc)
    | eventsRead => exact .ite_of h (h.of_eq (by simp) (by simp))
    | counterRead k => exact .ite_of h (h.of_eq (by simp) (by simp))
    | readCapture addr => exact .ite_of h (h.of_eq rfl rfl)
    | carrierDetect t level =>
      refine .ite_of h (.ite_of h.after_carrierRises ?_)
      unfold carrierFalls
      exact .ite_of (h.of_eq rfl rfl) (h.of_eq rfl rfl)
    | listenTimerExpiry t =>
      obtain ⟨⟨-, -, -, -, hsettings, -⟩, -, -, -, -, hras, -⟩ := hframe
      exact h.of_eq (by rw [hras]) hsettings
    | coldStartDelayEnd t => exact .ite_of (h.of_eq rfl rfl) h
    | transmissionEnd t =>
      cases htx : s.lif.tx with
      | none => exact (nextState_transmissionEnd_idle htx).symm ▸ h
      | some f =>
        rw [nextState_transmissionEnd htx]
        refine .after_afterTransmission ?_
        exact h.of_eq rfl rfl
    | lineLostTimerExpiry t =>
      exact .ite_of (.after_lineLoss (s := forgetEcho (loseTiming s)) (h.of_eq (by simp) (by simp))) h
    | ownBid => exact .ite_of (h.of_eq rfl rfl) h
    | slotReport line => exact h.after_slotReport
    | unslottedReception r => exact h.after_unslottedReception
    | cycleBoundary =>
      cases hg : nextGap s.cyc with
      | none => exact (nextState_cycleBoundary_idle hg).symm ▸ h
      | some start =>
        rw [nextState_cycleBoundary hg]
        refine .after_takeBoundary ?_
        exact h.of_eq rfl rfl
    | tableSend =>
      obtain ⟨⟨-, -, -, -, hsettings, -⟩, -, -, -, -, -, hras, -⟩ := hframe
      exact h.of_eq (by rw [hras]) hsettings
    | frameRequest =>
      obtain ⟨⟨-, -, -, -, hsettings, -⟩, -, -, -, hras, -⟩ := hframe
      exact h.of_eq (by rw [hras]) hsettings
    | staleTimerExpiry t src cls => exact h.after_staleExpiry
    | ingressWord kind w => exact .ite_of (h.of_eq (by simp) (by simp)) h
    | egressWordTaken => exact .ite_of (h.of_eq (by simp) (by simp)) h

end Sys2Proof.Machine

open Sys2Proof Sys2Proof.Machine

/-- Settles O60: a step idles or takes a command, and every command keeps the table lawful. -/
theorem stepKeepsContextLaw : Obligations.StepKeepsContextLaw := by
  intro s t _ hs h hstep
  rcases step_cases hstep with rfl | ⟨c, rest, -, rfl⟩
  · exact h
  · exact nextState_contextLaw c hs h
end

section
/-! SUPPORT. The egress words field by field (11.2, R148, R149, R161, R176). -/

namespace Sys2Proof.Machine

/-! ### A field of a word that is written out part by part

The type of a word gives its width as 32, not as the sum of the widths of its parts; `no_index` lets `simp` use the
rules all the same. -/

theorem extractLsb'_above {v w start len : Nat} (hi : BitVec v) (lo : BitVec w) (h : w ≤ start) :
    BitVec.extractLsb' start len (no_index (hi ++ lo)) = hi.extractLsb' (start - w) len :=
  BitVec.extractLsb'_append_eq_of_le h

theorem extractLsb'_low {v w : Nat} (hi : BitVec v) (lo : BitVec w) :
    BitVec.extractLsb' 0 w (no_index (hi ++ lo)) = lo :=
  BitVec.extractLsb'_append_eq_right

theorem getLsbD_above {v w i : Nat} (hi : BitVec v) (lo : BitVec w) (h : w ≤ i) :
    BitVec.getLsbD (no_index (hi ++ lo)) i = hi.getLsbD (i - w) := by
  rw [BitVec.getLsbD_append, if_neg (Nat.not_lt.mpr h)]

theorem getLsbD_low {v : Nat} (hi : BitVec v) (b : Bool) :
    BitVec.getLsbD (no_index (hi ++ BitVec.ofBool b)) 0 = b := by
  rw [BitVec.getLsbD_append, if_pos Nat.one_pos, BitVec.getLsbD_ofBool]
  simp

/-! ### The words of a delivered record (R148) -/

theorem deliveredHead1_fields (r : DeliveredRecord) :
    (deliveredHead1 r).extractLsb' 27 5 = 0 ∧ (deliveredHead1 r).extractLsb' 6 2 = 0 ∧
      (deliveredHead1 r).extractLsb' 0 4 = BitVec.ofFin r.src ∧
      (deliveredHead1 r).extractLsb' 4 2 = BitVec.ofFin r.cls ∧
      (deliveredHead1 r).extractLsb' 8 8 = r.seq ∧ (deliveredHead1 r).extractLsb' 16 8 = r.tag ∧
      (deliveredHead1 r).extractLsb' 24 3 = r.status.code := by
  simp [deliveredHead1, extractLsb'_above, extractLsb'_low]

theorem deliveredHead2_toNat {r : DeliveredRecord} (h : r.len ≤ 1024) : (deliveredHead2 r).toNat = r.len := by
  have hlen : r.len < 2 ^ 11 := by omega
  rw [deliveredHead2, BitVec.toNat_append]
  simp; omega

/-- Byte `j` of payload word `n` (R148). -/
theorem deliveredPayload_byte (r : DeliveredRecord) (n : Nat) {j : Nat} (hj : j < 4) :
    (deliveredPayload r n).extractLsb' (8 * j) 8 =
      if 4 * n + j < r.len then r.bufs.flatten.getD (4 * n + j) 0 else 0 := by
  unfold deliveredPayload
  interval_cases j <;> simp [extractLsb'_above, extractLsb'_low]

/-! ### The words of a notice (R149) -/

theorem noticeHead_fields (n : Notice) :
    (noticeHead n).getLsbD 31 = true ∧ (noticeHead n).extractLsb' 24 7 = 0 ∧ (noticeHead n).extractLsb' 2 2 = 0 ∧
      (noticeHead n).extractLsb' 0 2 = n.kind.code ∧ (noticeHead n).extractLsb' 4 2 = BitVec.ofFin n.cls ∧
      (noticeHead n).getLsbD 6 = n.seq.isSome ∧ (noticeHead n).getLsbD 7 = n.partly ∧
      (noticeHead n).extractLsb' 8 8 = n.seq.getD 0 ∧ (noticeHead n).extractLsb' 16 8 = n.tag := by
  unfold noticeHead
  simp [extractLsb'_above, extractLsb'_low, getLsbD_above, getLsbD_low, -BitVec.getLsbD_eq_getElem]

theorem noticeTail_fields (n : Notice) :
    (noticeTail n).extractLsb' 16 16 = 0 ∧ (noticeTail n).extractLsb' 3 5 = 0 ∧
      (noticeTail n).extractLsb' 0 3 = causeCode n.cause ∧ (noticeTail n).extractLsb' 8 8 = natByte n.lost := by
  simp [noticeTail, extractLsb'_above, extractLsb'_low]

/-! ### The words in their order -/

/-- Payload word `n` of a delivered record is word `n + 2` of its emission, and the last one is its TAIL (R148, R161). -/
theorem egressWord_payload (r : DeliveredRecord) (n : Nat) :
    egressWord (.delivered r) (n + 2) =
      (if n + 1 = (r.len + 3) / 4 then .tail else .body, deliveredPayload r n) := by
  have hlast : n + 2 + 1 = egressWordCount (.delivered r) ↔ n + 1 = (r.len + 3) / 4 := by
    rw [egressWordCount]
    omega
  simp [egressWord, hlast]

end Sys2Proof.Machine

open Sys2Proof Sys2Proof.Machine

/-- Settles O53: the codes, then each word field by field. -/
theorem egressWords : Obligations.EgressWords := by
  refine ⟨by decide, fun r hlen => ?_, fun n hlost => ?_⟩
  · obtain ⟨htop, hgap, hsrc, hcls, hseq, htag, hstatus⟩ := deliveredHead1_fields r
    refine ⟨rfl, rfl, htop, hgap, congrArg BitVec.toNat hsrc, congrArg BitVec.toNat hcls, hseq, htag, hstatus,
      deliveredHead2_toNat hlen, fun n _ => ?_⟩
    rw [egressWord_payload]
    exact ⟨rfl, fun j hj => deliveredPayload_byte r n hj⟩
  · obtain ⟨hnotice, htop, hgap, hkind, hcls, hsome, hpartly, hseq, htag⟩ := noticeHead_fields n
    obtain ⟨hhigh, hlow, hcause, hcount⟩ := noticeTail_fields n
    refine ⟨rfl, rfl, rfl, hnotice, htop, hgap, hhigh, hlow, hkind, congrArg BitVec.toNat hcls, hsome, hpartly, hseq,
      htag, hcause, (congrArg BitVec.toNat hcount).trans ?_⟩
    rw [natByte, BitVec.toNat_ofNat, Nat.mod_eq_of_lt (by omega)]
end

section
/-! SUPPORT. A record boundary (R144): what the arbiter chooses in Strict and in Weighted mode (R145, R146). -/

namespace Sys2Proof.Machine

/-! ### The first queue that holds a record -/

section
variable {qs : Four (List DeliveredRecord)}

theorem firstHolding_of_first {pre post : List Class} {q : Class} (hpre : ∀ x ∈ pre, qs.get x = [])
    (hq : qs.get q ≠ []) : firstHolding qs (pre ++ q :: post) = some q := by
  induction pre with
  | nil => simp [firstHolding, hq]
  | cons p pre ih =>
    obtain ⟨hp, hpre⟩ := List.forall_mem_cons.mp hpre
    simp [firstHolding, hp, ih hpre]

theorem firstHolding_of_empty (h : ∀ q, qs.get q = []) (l : List Class) : firstHolding qs l = none := by
  induction l with
  | nil => rfl
  | cons p l ih => simp [firstHolding, h p, ih]

end

/-! ### The choice among the delivery queues -/

section
variable {d : Dlv}

/-- Strict mode: every lower-numbered queue is empty (R145). -/
theorem chooseStrict_of_lowest {q : Class} (hlower : ∀ x, x < q → d.queues.get x = [])
    (hq : d.queues.get q ≠ []) : chooseStrict d = some q := by
  have hsplit : ∀ q : Class, [0, 1, 2, 3] = [0, 1, 2, 3].take q.val ++ q :: [0, 1, 2, 3].drop (q.val + 1) ∧
      ∀ x ∈ [0, 1, 2, 3].take q.val, x < q := by decide
  obtain ⟨hlist, hbelow⟩ := hsplit q
  rw [chooseStrict, hlist]
  exact firstHolding_of_first (fun x hx => hlower x (hbelow x hx)) hq

variable {w : Four (BitVec 4)}

/-- Weighted mode: the run of queue p goes on (R146). -/
theorem chooseWeighted_run (hq : d.queues.get d.pointer ≠ []) (hrun : d.run < (w.get d.pointer).toNat) :
    chooseWeighted w d = some (d.pointer, d.run + 1) := by
  simp [chooseWeighted, hq, hrun]

/-- Weighted mode: the run is over, and the queues are searched from p + 1 (R146). -/
theorem chooseWeighted_over (hover : d.queues.get d.pointer = [] ∨ (w.get d.pointer).toNat ≤ d.run) :
    chooseWeighted w d =
      (firstHolding d.queues ([1, 2, 3, 4].map fun j => d.pointer + Fin.ofNat 4 j)).map fun q => (q, 1) := by
  have hno : ¬((!(d.queues.get d.pointer).isEmpty && decide (d.run < (w.get d.pointer).toNat)) = true) := by
    simpa [imp_iff_not_or] using hover
  have horder : ∀ p : Class, [p + 1, p + 2, p + 3, p] = [1, 2, 3, 4].map fun j => p + Fin.ofNat 4 j := by decide
  rw [chooseWeighted, if_neg hno, horder]
  split <;> simp_all

/-- Weighted mode: the search ends at the first of the queues from p + 1 that holds a record (R146). -/
theorem chooseWeighted_search {k : Nat} (hover : d.queues.get d.pointer = [] ∨ (w.get d.pointer).toNat ≤ d.run)
    (hk : 1 ≤ k) (hk4 : k ≤ 4) (hq : d.queues.get (d.pointer + Fin.ofNat 4 k) ≠ [])
    (hbefore : ∀ j : Nat, 1 ≤ j → j < k → d.queues.get (d.pointer + Fin.ofNat 4 j) = []) :
    chooseWeighted w d = some (d.pointer + Fin.ofNat 4 k, 1) := by
  have hsplit : [1, 2, 3, 4] = [1, 2, 3, 4].take (k - 1) ++ k :: [1, 2, 3, 4].drop k ∧
      ∀ j ∈ [1, 2, 3, 4].take (k - 1), 1 ≤ j ∧ j < k := by
    interval_cases k <;> decide
  obtain ⟨hlist, hpassed⟩ := hsplit
  rw [chooseWeighted_over hover, hlist, List.map_append, List.map_cons, firstHolding_of_first _ hq]
  · rfl
  · simp only [List.mem_map]
    rintro x ⟨j, hj, rfl⟩
    obtain ⟨h1, hlt⟩ := hpassed j hj
    exact hbefore j h1 hlt

end

/-! ### The emission that begins (R147) -/

section
variable {s : State}

theorem beginDelivery_cons {q : Class} {r : DeliveredRecord} {rest : List DeliveredRecord}
    (h : s.dlv.queues.get q = r :: rest) :
    beginDelivery q s =
      { s with dlv := { s.dlv with queues := s.dlv.queues.set q rest },
               trb := { s.trb with framer := .emitting (.delivered r) 0 } } := by
  rw [beginDelivery, h]

theorem arbitrate_notice {n : Notice} {rest : List Notice} (hidle : s.trb.framer = .idle)
    (h : s.dlv.notices = n :: rest) :
    arbitrate s =
      { s with dlv := { s.dlv with notices := rest }, trb := { s.trb with framer := .emitting (.notice n) 0 } } := by
  rw [arbitrate, hidle, h]

theorem arbitrate_noNotice (hidle : s.trb.framer = .idle) (h : s.dlv.notices = []) :
    arbitrate s = arbitrateDelivery s := by
  rw [arbitrate, hidle, h]

theorem weightedMode_iff : weightedMode s = true ↔ s.mgt.settings.mode = 1 := beq_iff_eq

theorem arbitrateDelivery_strict (hmode : s.mgt.settings.mode ≠ 1) {q : Class} (hq : chooseStrict s.dlv = some q) :
    arbitrateDelivery s = beginDelivery q s := by
  rw [arbitrateDelivery, if_neg (weightedMode_iff.not.mpr hmode), hq]

theorem arbitrateDelivery_weighted (hmode : s.mgt.settings.mode = 1) {q : Class} {run : Nat}
    (hq : chooseWeighted s.mgt.settings.weights s.dlv = some (q, run)) :
    arbitrateDelivery s = beginDelivery q { s with dlv := { s.dlv with pointer := q, run := run } } := by
  rw [arbitrateDelivery, if_pos (weightedMode_iff.mpr hmode), hq]

theorem arbitrateDelivery_empty (h : ∀ q, s.dlv.queues.get q = []) : arbitrateDelivery s = s := by
  have hweighted : chooseWeighted s.mgt.settings.weights s.dlv = none := by
    rw [chooseWeighted_over (.inl (h _)), firstHolding_of_empty h, Option.map_none]
  rw [arbitrateDelivery, hweighted, chooseStrict, firstHolding_of_empty h]
  exact ite_self s

end

end Sys2Proof.Machine

open Sys2Proof Sys2Proof.Machine

/-- Settles O52: the notice queue, then the choice in Strict mode, and in Weighted mode the run and the search. -/
theorem arbiterChooses : Obligations.ArbiterChooses := by
  intro s emit
  refine ⟨arbitrate_busy, fun hidle => ⟨fun n rest h => arbitrate_notice hidle h, fun hnone => ?_⟩⟩
  rw [arbitrate_noNotice hidle hnone]
  refine ⟨arbitrateDelivery_empty, fun q r rest hmode hq hlower => ?_, fun r rest hmode hq hrun => ?_,
    fun k r rest hmode hover hk hk4 hq hbefore => ?_⟩
  · rw [arbitrateDelivery_strict hmode (chooseStrict_of_lowest hlower (hq ▸ List.cons_ne_nil r rest)),
      beginDelivery_cons hq]
  · rw [arbitrateDelivery_weighted hmode (chooseWeighted_run (hq ▸ List.cons_ne_nil r rest) hrun)]
    exact beginDelivery_cons hq
  · rw [arbitrateDelivery_weighted hmode (chooseWeighted_search hover hk hk4 (hq ▸ List.cons_ne_nil r rest) hbefore)]
    exact beginDelivery_cons hq

/-- Settles O51: the depth decides, and a lost notice saturates the count. -/
theorem noticeTaken : Obligations.NoticeTaken := by
  refine ⟨fun n s hroom => if_pos hroom, fun n s hfull hlost => ?_⟩
  have hcount : (if s.dlv.lost < 255 then s.dlv.lost + 1 else 255) = min 255 (s.dlv.lost + 1) := by
    split <;> omega
  rw [takeNotice, if_neg (by omega), hcount]
  rfl
end

section
/-! SUPPORT. The word on offer stays with the local side until it is taken (R153, R161): while a record is in emission or
a BREAK is pending the arbiter chooses nothing (`arbitrate_busy`, R144, R163), so no operation that raises a notice or
hands a record to DLV moves the framer, and each further operation follows by those it calls. -/

namespace Sys2Proof.Machine

section
variable {s : State} (busy : s.trb.framer ≠ .idle)
include busy

/-! ### Notices, records and contexts -/

@[simp] theorem takeNotice_framer (n : Notice) : (takeNotice n s).trb.framer = s.trb.framer :=
  (takeNotice_waiting n s busy).1

@[simp] theorem takeNotices_framer (ns : List Notice) : (takeNotices ns s).trb.framer = s.trb.framer :=
  (WaitingKept.foldl (fun s n => takeNotice_waiting n s) ns s busy).1

@[simp] theorem raiseRefused_framer (k : RefusalCause) (c : Class) (tag : Byte) :
    (raiseRefused k c tag s).trb.framer = s.trb.framer := by
  simp [raiseRefused, busy]

@[simp] theorem handOff_framer (r : DeliveredRecord) : (handOff r s).trb.framer = s.trb.framer :=
  (handOff_waiting r s busy).1

@[simp] theorem abortContext_framer (w : AbortReason) (c : Context) :
    (abortContext w c s).trb.framer = s.trb.framer := by
  unfold abortContext
  dsimp only
  split <;> simp [busy]

@[simp] theorem abortContexts_framer (w : AbortReason) (cs : List Context) :
    (abortContexts w cs s).trb.framer = s.trb.framer := by
  have each (os : List Context) (u : State) (h : u.trb.framer ≠ .idle) :
      (os.foldl (fun s c => abortContext w c s) u).trb.framer = u.trb.framer := by
    induction os generalizing u with
    | nil => rfl
    | cons c os ih =>
      have hc := abortContext_framer h w c
      exact (ih _ (hc ▸ h)).trans hc
  exact each _ { s with freeIx := _ } busy

@[simp] theorem removeSources_framer (rs : List Station) : (removeSources rs s).trb.framer = s.trb.framer := by
  simp [removeSources, busy]

@[simp] theorem openContext_framer (t : Time) (f : SegmentFrame) : (openContext t f s).trb.framer = s.trb.framer := by
  unfold openContext
  dsimp only
  (repeat' split) <;> simp [busy]

@[simp] theorem firstSegment_framer (t : Time) (f : SegmentFrame) : (firstSegment t f s).trb.framer = s.trb.framer := by
  unfold firstSegment
  dsimp only
  (repeat' split) <;> simp [busy]

@[simp] theorem laterSegment_framer (t : Time) (f : SegmentFrame) : (laterSegment t f s).trb.framer = s.trb.framer := by
  unfold laterSegment
  (repeat' split) <;> simp [busy]

@[simp] theorem takeSegment_framer (t : Time) (f : SegmentFrame) : (takeSegment t f s).trb.framer = s.trb.framer := by
  unfold takeSegment
  (repeat' split) <;> simp [busy]

@[simp] theorem takeAbort_framer (f : AbortFrame) : (takeAbort f s).trb.framer = s.trb.framer := by
  unfold takeAbort
  (repeat' split) <;> simp [busy]

@[simp] theorem staleExpiry_framer (t : Time) (src : Station) (c : Class) :
    (staleExpiry t src c s).trb.framer = s.trb.framer := by
  unfold staleExpiry
  (repeat' split) <;> simp [busy]

/-! ### The messages of TXQ -/

@[simp] theorem messageEnd_framer (e : MessageEnd) : (messageEnd e s).trb.framer = s.trb.framer := by
  unfold messageEnd dropMessage
  (repeat' split) <;> simp [busy]

@[simp] theorem frameSupplied_framer (c : Class) : (frameSupplied c s).trb.framer = s.trb.framer := by
  unfold frameSupplied segmentSent
  dsimp only
  (repeat' split) <;> simp [busy]

@[simp] theorem flushQueue_framer (c : Class) : (flushQueue c s).trb.framer = s.trb.framer := by
  simp [flushQueue, busy]

@[simp] theorem takeIngressWord_framer (k : WordKind) (w : Word) :
    (takeIngressWord k w s).trb.framer = s.trb.framer := by
  unfold takeIngressWord takeHead takeBody takeTail takeBreak
  (repeat' split) <;> simp [busy]

/-! ### Entries into station states -/

@[simp] theorem endSession_framer : (endSession s).trb.framer = s.trb.framer := by
  obtain ⟨-, -, -, htrb, -⟩ := endSession_blocks s
  rw [htrb]
  exact (endQueues_waiting s busy).1

@[simp] theorem enterStopped_framer : (enterStopped s).trb.framer = s.trb.framer := by
  simp [enterStopped, busy]

@[simp] theorem enterHalted_framer (h : HaltCause) : (enterHalted h s).trb.framer = s.trb.framer := by
  unfold enterHalted
  dsimp only
  split <;> simp [busy]

@[simp] theorem enterListen_framer (t : Time) : (enterListen t s).trb.framer = s.trb.framer := by
  unfold enterListen
  dsimp only
  split <;> simp [busy]

@[simp] theorem stepLoss_framer (t : Time) : (stepLoss t s).trb.framer = s.trb.framer := by
  simp [stepLoss, busy]

/-! ### The end of the announcement phase -/

@[simp] theorem takeTable_framer (f : TableFrame) : (takeTable f s).trb.framer = s.trb.framer := by
  unfold takeTable loadTable
  dsimp only
  (repeat' split) <;> simp [busy]

@[simp] theorem commit_framer (o : Announcement) : (commit o s).trb.framer = s.trb.framer := by
  unfold commit
  dsimp only
  split <;> simp [busy]

@[simp] theorem verdict_framer (o : Announcement) : (verdict o s).trb.framer = s.trb.framer := by
  unfold verdict
  dsimp only
  (repeat' split) <;> simp [busy]

@[simp] theorem endAnnouncement_framer (t : Time) : (endAnnouncement t s).trb.framer = s.trb.framer := by
  unfold endAnnouncement
  dsimp only
  (repeat' split) <;> simp [busy]

/-! ### The cycle boundary -/

@[simp] theorem joinCycleEnds_framer (t : Time) : (boundaryStep.joinCycleEnds t s).trb.framer = s.trb.framer := by
  unfold boundaryStep.joinCycleEnds
  dsimp only
  (repeat' split) <;> simp [busy]

@[simp] theorem boundaryStep_framer (t : Time) : (boundaryStep t s).trb.framer = s.trb.framer := by
  unfold boundaryStep
  dsimp only
  (repeat' split) <;> simp [busy]

@[simp] theorem takeBoundary_framer (t : Time) : (takeBoundary t s).trb.framer = s.trb.framer := by
  simp [takeBoundary, busy]

@[simp] theorem beginGap_framer (t : Time) : (beginGap t s).trb.framer = s.trb.framer := by
  simp [beginGap, busy]

/-! ### BIDs and slots -/

@[simp] theorem compareProfile_framer (b : Byte) : (compareProfile b s).trb.framer = s.trb.framer := by
  unfold compareProfile
  (repeat' split) <;> simp [busy]

@[simp] theorem checkDuplicate_framer (st : Station) (own : Bool) :
    (checkDuplicate st own s).trb.framer = s.trb.framer := by
  unfold checkDuplicate
  split <;> simp [busy]

@[simp] theorem judgeStation_framer (b : Byte) (st : Station) (own : Bool) :
    (checkDuplicate st own (compareProfile b s)).trb.framer = s.trb.framer := by
  simp [busy]

@[simp] theorem countEcho_framer (ok : Bool) : (countEcho ok s).trb.framer = s.trb.framer := by
  unfold countEcho
  dsimp only
  (repeat' split) <;> simp [busy]

@[simp] theorem enterBidReport_framer (k : Nat) (own : Option Frame) (ok : Bool) (c : SlotClass) :
    (enterBidReport k own ok c s).trb.framer = s.trb.framer := by
  unfold enterBidReport
  dsimp only
  (repeat' split) <;> simp [busy]

@[simp] theorem endBidSlot_framer (k : Nat) (t : Time) : (endBidSlot k t s).trb.framer = s.trb.framer := by
  unfold endBidSlot
  (repeat' split) <;> simp [busy]

@[simp] theorem bidSlotReport_framer (k : Nat) (a : Time) (line : SpanLine) :
    (bidSlotReport k a line s).trb.framer = s.trb.framer := by
  unfold bidSlotReport
  dsimp only
  split <;> simp [busy]

@[simp] theorem handDataFrame_framer (t : Time) (f : Frame) : (handDataFrame t f s).trb.framer = s.trb.framer := by
  unfold handDataFrame
  split <;> simp [busy]

@[simp] theorem dataSlotReport_framer (o : Bool) (i : Nat) (d : Time) (line : SpanLine) :
    (dataSlotReport o i d line s).trb.framer = s.trb.framer := by
  unfold dataSlotReport
  dsimp only
  (repeat' split) <;> simp [busy]

@[simp] theorem slotReport_framer (line : SpanLine) : (slotReport line s).trb.framer = s.trb.framer := by
  unfold slotReport
  (repeat' split) <;> simp [busy]

/-! ### Unslotted receptions -/

@[simp] theorem beginCycleByBid_framer (own : Bool) (f : BidFrame) (r : Reception) :
    (beginCycleByBid own f r s).trb.framer = s.trb.framer := by
  unfold beginCycleByBid
  extract_lets a cyc timed begun entered blinded counted
  have htimed : timed.trb.framer = s.trb.framer := rfl
  have hbegun : begun.trb.framer = s.trb.framer := by
    unfold begun
    split
    · exact htimed
    · exact (takeBoundary_framer (htimed ▸ busy) _).trans htimed
  have hblinded : blinded.trb.framer = s.trb.framer := by simpa [blinded, entered] using hbegun
  have hcounted : counted.trb.framer = s.trb.framer := by
    unfold counted
    split
    · exact (countEcho_framer (hblinded ▸ busy) _).trans hblinded
    · exact hblinded
  split
  · exact hbegun
  · exact (judgeStation_framer (hcounted ▸ busy) _ _ _).trans hcounted

@[simp] theorem takeUnslotted_framer (own : Bool) (f : Frame) (r : Reception) :
    (takeUnslotted own f r s).trb.framer = s.trb.framer := by
  unfold takeUnslotted
  (repeat' split) <;> simp [busy]

@[simp] theorem startEchoFailed_framer (t : Time) : (startEchoFailed t s).trb.framer = s.trb.framer := by
  simp [startEchoFailed, busy]

@[simp] theorem judgeStartEcho_framer (e : EchoWatch) (f : Option Frame) (r : Reception) :
    (judgeStartEcho e f r s).trb.framer = s.trb.framer := by
  unfold judgeStartEcho
  dsimp only
  (repeat' split) <;> simp [busy]

@[simp] theorem takeReception_framer (own f : Option Frame) (r : Reception) :
    (takeReception own f r s).trb.framer = s.trb.framer := by
  unfold takeReception
  split <;> simp [busy]

@[simp] theorem unslottedReception_framer (r : Reception) : (unslottedReception r s).trb.framer = s.trb.framer := by
  unfold unslottedReception
  dsimp only
  (repeat' split) <;> simp [busy]

/-! ### Carrier, timers and the management port -/

@[simp] theorem carrierRises_framer (t : Time) : (carrierRises t s).trb.framer = s.trb.framer := by
  unfold carrierRises
  dsimp only
  (repeat' split) <;> simp [busy]

@[simp] theorem afterTransmission_framer (t : Time) (f : Frame) :
    (afterTransmission t f s).trb.framer = s.trb.framer := by
  unfold afterTransmission settleStartEcho
  dsimp only
  (repeat' split) <;> simp [busy]

@[simp] theorem lineLoss_framer (t : Time) : (lineLoss t s).trb.framer = s.trb.framer := by
  unfold lineLoss
  split <;> simp [busy]

@[simp] theorem joinCommand_framer (t : Time) : (joinCommand t s).trb.framer = s.trb.framer := by
  unfold joinCommand
  dsimp only
  (repeat' split) <;> simp [busy]

@[simp] theorem leaveCommand_framer : (leaveCommand s).trb.framer = s.trb.framer := by
  unfold leaveCommand
  split <;> simp [busy]

@[simp] theorem flushCommand_framer (c : Class) : (flushCommand c s).trb.framer = s.trb.framer := by
  unfold flushCommand
  split <;> simp [busy]

theorem writeRegister_framer (t : Time) (addr : BitVec 7) (v : Half)
    (hc : isReset (.registerWrite t addr v) = false) : (writeRegister t addr v s).trb.framer = s.trb.framer := by
  rcases writeRegister_cases t addr v s with
    ⟨-, e⟩ | e | ⟨c, e⟩ | ⟨hreset, -⟩ | e | ⟨-, e⟩ | ⟨-, -, e⟩ | e
  · rw [e, joinCommand_framer busy]
  · rw [e, leaveCommand_framer busy]
  · rw [e, flushCommand_framer busy]
  · exact absurd (hreset.symm.trans hc) (by decide)
  · rw [e]; rfl
  · rw [e]
  · rw [e]
  · rw [e]

end

/-! ### Every command -/

/-- Every command but a reset and a taken word leaves the record in emission, or the BREAK, to the local side (R161). -/
theorem nextState_framer {c : Instr} {s : State} (hreset : isReset c = false) (htaken : c ≠ .egressWordTaken)
    (busy : s.trb.framer ≠ .idle) : (nextState c s).trb.framer = s.trb.framer := by
  have hread : (endRead s).trb.framer ≠ .idle := busy
  have hframe := commandFrames.2 c s (nextState c s) (exec_eq_next c s)
  cases c with
  | powerOn => cases hreset
  | resetPinAssert => cases hreset
  | softReset => cases hreset
  | egressWordTaken => exact absurd rfl htaken
  | resetPinRelease => rfl
  | cleanUpComplete => rw [nextState_cleanUpComplete]; split <;> rfl
  | join t => rw [nextState_join]; split; exacts [rfl, joinCommand_framer hread t]
  | leave => rw [nextState_leave]; split; exacts [rfl, leaveCommand_framer hread]
  | flush c => rw [nextState_flush]; split; exacts [rfl, flushCommand_framer hread c]
  | unknownCommand code => rw [nextState_unknownCommand]; (repeat' split) <;> rfl
  | registerWrite t addr v =>
    rw [nextState_registerWrite]
    split
    · rfl
    · exact writeRegister_framer hread t addr v hreset
  | eventsRead => rw [nextState_eventsRead]; split <;> simp
  | counterRead k => rw [nextState_counterRead]; split <;> simp
  | readCapture addr => rw [nextState_readCapture]; split <;> rfl
  | carrierDetect t level =>
    rw [nextState_carrierDetect]
    split
    · rfl
    · split
      · exact carrierRises_framer busy t
      · unfold carrierFalls
        dsimp only
        split <;> rfl
  | listenTimerExpiry t =>
    obtain ⟨-, -, -, -, -, -, -, htrb, -⟩ := hframe
    rw [htrb]
  | coldStartDelayEnd t =>
    obtain ⟨-, -, -, -, -, -, -, -, -, -, htrb, -⟩ := hframe
    rw [htrb]
  | ownBid =>
    obtain ⟨-, -, -, -, -, -, -, -, htrb, -⟩ := hframe
    rw [htrb]
  | tableSend =>
    obtain ⟨-, -, -, -, -, -, -, -, htrb, -⟩ := hframe
    rw [htrb]
  | transmissionEnd t =>
    cases htx : s.lif.tx with
    | none => rw [nextState_transmissionEnd_idle htx]
    | some f => rw [nextState_transmissionEnd htx]; exact afterTransmission_framer (by exact busy) t f
  | lineLostTimerExpiry t => rw [nextState_lineLostTimerExpiry]; split <;> simp [busy]
  | slotReport line => exact slotReport_framer busy line
  | unslottedReception r => exact unslottedReception_framer busy r
  | cycleBoundary =>
    cases hg : nextGap s.cyc with
    | none => rw [nextState_cycleBoundary_idle hg]
    | some start => rw [nextState_cycleBoundary hg, beginGap_framer busy]
  | frameRequest =>
    cases hg : ownGrantedSlot s with
    | none => rw [nextState_frameRequest_idle hg]
    | some g =>
      rw [nextState_frameRequest hg]
      split
      · exact frameSupplied_framer busy g.1.cls
      · rfl
  | staleTimerExpiry t src cls => exact staleExpiry_framer busy t src cls
  | ingressWord kind w => rw [nextState_ingressWord]; split; exacts [takeIngressWord_framer busy kind w, rfl]

/-- No command but a reset asserts the RESET pin or holds a BREAK back (R164). -/
theorem nextState_egressOpen {c : Instr} {s : State} (hreset : isReset c = false) :
    (s.pins.resetPin = false → (nextState c s).pins.resetPin = false) ∧
      (s.breakHeld = false → (nextState c s).breakHeld = false) := by
  have hframe := commandFrames.2 c s (nextState c s) (exec_eq_next c s)
  have of_eq {t : State} (hpins : t.pins.resetPin = s.pins.resetPin) (hheld : t.breakHeld = s.breakHeld) :
      (s.pins.resetPin = false → t.pins.resetPin = false) ∧ (s.breakHeld = false → t.breakHeld = false) :=
    ⟨hpins.trans, hheld.trans⟩
  cases c with
  | powerOn => cases hreset
  | resetPinAssert => cases hreset
  | softReset => cases hreset
  | resetPinRelease => exact ⟨fun _ => rfl, id⟩
  | cleanUpComplete => rw [nextState_cleanUpComplete]; split; exacts [⟨id, id⟩, ⟨id, fun _ => rfl⟩]
  | join t => rw [nextState_join]; split <;> exact of_eq (by simp) (by simp)
  | leave => rw [nextState_leave]; split <;> exact of_eq (by simp) (by simp)
  | flush c => rw [nextState_flush]; split <;> exact of_eq (by simp) (by simp)
  | unknownCommand code => rw [nextState_unknownCommand]; (repeat' split) <;> exact of_eq rfl rfl
  | registerWrite t addr v =>
    rw [nextState_registerWrite]
    split
    · exact ⟨id, id⟩
    · rcases writeRegister_cases t addr v (endRead s) with
        ⟨-, e⟩ | e | ⟨c, e⟩ | ⟨hreset', -⟩ | e | ⟨-, e⟩ | ⟨-, -, e⟩ | e
      · exact of_eq (by simp [e]) (by simp [e])
      · exact of_eq (by simp [e]) (by simp [e])
      · exact of_eq (by simp [e]) (by simp [e])
      · exact absurd (hreset'.symm.trans hreset) (by decide)
      all_goals exact of_eq (by rw [e]; rfl) (by rw [e]; rfl)
  | eventsRead => rw [nextState_eventsRead]; split <;> exact of_eq (by simp) (by simp)
  | counterRead k => rw [nextState_counterRead]; split <;> exact of_eq (by simp) (by simp)
  | readCapture addr => rw [nextState_readCapture]; split <;> exact of_eq rfl rfl
  | carrierDetect t level =>
    obtain ⟨hpin, -, hheld, -⟩ := hframe
    exact of_eq hpin hheld
  | _ =>
    obtain ⟨⟨hpins, -, hheld, -⟩, -⟩ := hframe
    exact of_eq (by rw [hpins]) hheld

/-! ### The word offered (R161, R163, R164) -/

theorem evalidPin_iff (s : State) :
    evalidPin s = true ↔ s.pins.resetPin = false ∧
      ((∃ rec i, s.trb.framer = .emitting rec i) ∨ s.trb.framer = .breakPending ∧ s.breakHeld = false) := by
  cases h : s.trb.framer with
  | idle => simp [evalidPin_idle s h]
  | emitting rec i => simp [evalidPin_emitting s rec i h]
  | breakPending => simp [evalidPin_breakPending s h]

theorem offeredWord_emitting {s : State} {rec : EgressRecord} {i : Nat} (hpin : s.pins.resetPin = false)
    (h : s.trb.framer = .emitting rec i) : offeredWord s = some (egressWord rec i) := by
  simp [offeredWord, evalidPin_emitting s rec i h, hpin, h]

/-- A word is offered exactly while EVALID is high. -/
theorem evalidPin_iff_offered (s : State) : evalidPin s = true ↔ offeredWord s ≠ none := by
  cases h : s.trb.framer with
  | idle => simp [offeredWord, evalidPin_idle s h]
  | emitting rec i => simp [offeredWord, h]
  | breakPending => simp [offeredWord, h]

/-- EVALID and the word depend on the framer and on what holds EVALID low. -/
theorem offeredWord_kept {s t : State} {w : WordKind × Word}
    (hframer : s.trb.framer ≠ .idle → t.trb.framer = s.trb.framer) (hpin : s.pins.resetPin = false → t.pins.resetPin = false) (hheld : s.breakHeld = false → t.breakHeld = false)
    (h : offeredWord s = some w) : offeredWord t = some w := by
  have hvalid : evalidPin s = true := (evalidPin_iff_offered s).mpr (by simp [h])
  obtain ⟨hs, ⟨rec, i, hf⟩ | ⟨hf, hb⟩⟩ := (evalidPin_iff s).mp hvalid
  · have ht : t.trb.framer = .emitting rec i := (hframer (by simp [hf])).trans hf
    rw [offeredWord_emitting (hpin hs) ht, ← h, offeredWord_emitting hs hf]
  · have ht : t.trb.framer = .breakPending := (hframer (by simp [hf])).trans hf
    have hvalid' : evalidPin t = true := (evalidPin_iff t).mpr ⟨hpin hs, .inr ⟨ht, hheld hb⟩⟩
    rw [← h, offeredWord, offeredWord, if_pos hvalid, if_pos hvalid', hf, ht]

/-! ### The word taken (R161, R162) -/

section
variable {s : State} {rec : EgressRecord} {i : Nat} (hpin : s.pins.resetPin = false)
  (h : s.trb.framer = .emitting rec i)
include hpin h

theorem nextState_egressWordTaken_emitting :
    nextState .egressWordTaken s =
      if i + 1 < egressWordCount rec then { s with trb := { s.trb with framer := .emitting rec (i + 1) } }
      else arbitrate (returnBuffers rec.buffers { s with trb := { s.trb with framer := .idle } }) := by
  have hvalid : evalidPin s = true := (evalidPin_iff s).mpr ⟨hpin, .inl ⟨rec, i, h⟩⟩
  rw [nextState_egressWordTaken, if_pos hvalid, takeEgressWord, h]

/-- The TAIL word ends the emission: the buffers return (R148), and DLV takes a record boundary (R144). -/
theorem nextState_egressWordTaken_last (hlast : i + 1 = egressWordCount rec) :
    nextState .egressWordTaken s =
      arbitrate (returnBuffers rec.buffers { s with trb := { s.trb with framer := .idle } }) := by
  rw [nextState_egressWordTaken_emitting hpin h, if_neg hlast.not_lt]

end

end Sys2Proof.Machine

open Sys2Proof Sys2Proof.Machine

/-- Settles O22: what EVALID says, the two outcomes of a taken word, and the walk through the commands for the word that
stays offered. -/
theorem egressWordTaken : Obligations.EgressWordTaken := by
  refine ⟨fun s => ⟨evalidPin_iff s, evalidPin_iff_offered s⟩,
    ⟨fun s hlow => ?_, fun s rec i hpin h hmore => ?_, fun s r i hpin h hlast => ?_, fun s n hpin h => ?_⟩,
    fun c s t w hexec hreset htaken hw => ?_⟩
  · rw [exec_eq_next, nextState_egressWordTaken, hlow]
    rfl
  · rw [exec_eq_next, nextState_egressWordTaken_emitting hpin h, if_pos hmore]
    exact ⟨_, rfl, rfl, offeredWord_emitting hpin rfl⟩
  · rw [exec_eq_next, nextState_egressWordTaken_last hpin h hlast]
    rfl
  · rw [exec_eq_next, nextState_egressWordTaken_last hpin h rfl]
    rfl
  · obtain rfl := nextState_of_exec hexec
    obtain ⟨hpin, hheld⟩ := nextState_egressOpen (s := s) hreset
    exact offeredWord_kept (nextState_framer hreset htaken) hpin hheld hw
end

section
/-! SUPPORT. The pins while the RESET pin is asserted (R153, R154, R164, R165, R171), the BREAK that a reset leaves in
place of an emission (R163), and the words of 11.2 that the parser reads (R156, R176). -/

namespace Sys2Proof.Machine

/-! ### The ports while the RESET pin is asserted (R153, R154, R164, R165) -/

theorem ireadyPin_iff (s : State) : ireadyPin s = true ↔ s.pins.resetPin = false ∧ s.cleaning = false := by
  simp [ireadyPin]

/-- The commands that come by an SPI transaction or by a word of the tributary port (R153, R165). -/
def isPortCommand : Instr → Bool
  | .join _ | .leave | .flush _ | .softReset | .unknownCommand _ | .registerWrite .. | .eventsRead | .counterRead _
  | .readCapture _ | .ingressWord .. | .egressWordTaken => true
  | _ => false

section Pinned
variable {s : State} (hpin : s.pins.resetPin = true)
include hpin

theorem ireadyPin_pinned : ireadyPin s = false := by
  simp [ireadyPin, hpin]

theorem evalidPin_pinned : evalidPin s = false := by
  simp [evalidPin, hpin]

theorem attnPin_pinned : attnPin s = false := by
  simp [attnPin, hpin]

theorem misoBit_pinned (port : Option (List Bool)) : misoBit s port = none := by
  unfold misoBit
  split
  · simp [hpin]
  · rfl

/-- Neither port takes anything while the RESET pin is asserted. -/
theorem nextState_pinned {c : Instr} (hc : isPortCommand c = true) : nextState c s = s := by
  cases c with
  | join t => rw [nextState_join, if_pos hpin]
  | leave => rw [nextState_leave, if_pos hpin]
  | flush c => rw [nextState_flush, if_pos hpin]
  | softReset => rw [nextState_softReset, if_pos hpin]
  | unknownCommand code => rw [nextState_unknownCommand, if_pos hpin]
  | registerWrite t addr v => rw [nextState_registerWrite, if_pos hpin]
  | eventsRead => rw [nextState_eventsRead, if_pos hpin]
  | counterRead k => rw [nextState_counterRead, if_pos hpin]
  | readCapture addr => rw [nextState_readCapture, if_pos hpin]
  | ingressWord kind w => simp [nextState_ingressWord, ireadyPin_pinned hpin]
  | egressWordTaken => simp [nextState_egressWordTaken, evalidPin_pinned hpin]
  | _ => cases hc

end Pinned

/-! ### The BREAK after a reset (R163, R164) -/

theorem framerAfterReset_beq_breakPending (f : Framer) :
    (framerAfterReset f == .breakPending) = !decide (f = .idle) := by
  cases f <;> rfl

/-- A BREAK stands on EKIND: it is pending, and neither the RESET pin nor the clean-up after it holds it back. -/
def BreakOffered (s : State) : Prop :=
  s.pins.resetPin = false ∧ s.breakHeld = false ∧ s.trb.framer = .breakPending

namespace BreakOffered

variable {s : State} (h : BreakOffered s)
include h

theorem framer_eq : s.trb.framer = .breakPending := by
  obtain ⟨-, -, hf⟩ := h
  exact hf

theorem evalidPin_eq : evalidPin s = true := by
  obtain ⟨hpin, hheld, hf⟩ := h
  exact (evalidPin_iff s).mpr ⟨hpin, .inr ⟨hf, hheld⟩⟩

theorem offeredWord_eq : offeredWord s = some (.brk, 0) := by
  rw [offeredWord, if_pos h.evalidPin_eq, h.framer_eq]

/-- The BREAK once taken leaves egress idle, at a record boundary (R144, R163). -/
theorem nextState_taken :
    nextState .egressWordTaken s = arbitrate { s with trb := { s.trb with framer := .idle } } := by
  rw [nextState_egressWordTaken, if_pos h.evalidPin_eq, takeEgressWord, h.framer_eq]

end BreakOffered

theorem exec_softReset_unpinned {s : State} (hpin : s.pins.resetPin = false) :
    exec .softReset s = .next (softResetCommand s) := by
  rw [exec_eq_next, nextState_softReset_unpinned hpin]

/-- SOFT RESET puts a BREAK in the place of an emission, and keeps one that is offered. -/
theorem breakOffered_softReset {s : State} (hpin : s.pins.resetPin = false) (hheld : s.breakHeld = false)
    (busy : s.trb.framer ≠ .idle) : BreakOffered (softResetCommand s) :=
  ⟨hpin, hheld, (framerAfterReset_eq _).trans (if_neg busy)⟩

/-- SOFT RESET has one effect, by its own command and by a write to COMMAND (R168, R169). -/
theorem nextState_eq_softReset {c : Instr} {s : State} (hpin : s.pins.resetPin = false) (hc : isReset c = true)
    (hpower : c ≠ .powerOn) (hassert : c ≠ .resetPinAssert) : nextState c s = softResetCommand s := by
  cases c with
  | powerOn => exact absurd rfl hpower
  | resetPinAssert => exact absurd rfl hassert
  | softReset => exact nextState_softReset_unpinned hpin
  | registerWrite t addr v =>
    rw [isReset, Bool.and_eq_true, beq_iff_eq, beq_iff_eq] at hc
    obtain ⟨haddr, hcode⟩ := hc
    rw [nextState_registerWrite, hpin, if_neg Bool.false_ne_true, writeRegister, if_pos haddr, commandWrite, hcode]
    rfl
  | _ => cases hc

/-- An offered BREAK stays until it is taken, whatever else the part does but lose power or its RESET pin (R163). -/
theorem BreakOffered.kept {c : Instr} {s : State} (h : BreakOffered s) (htaken : c ≠ .egressWordTaken)
    (hpower : c ≠ .powerOn) (hassert : c ≠ .resetPinAssert) : BreakOffered (nextState c s) := by
  obtain ⟨hpin, hheld, hf⟩ := h
  have busy : s.trb.framer ≠ .idle := by simp [hf]
  cases hc : isReset c with
  | true =>
    rw [nextState_eq_softReset hpin hc hpower hassert]
    exact breakOffered_softReset hpin hheld busy
  | false =>
    obtain ⟨keepsPin, keepsHeld⟩ := nextState_egressOpen (s := s) hc
    exact ⟨keepsPin hpin, keepsHeld hheld, (nextState_framer hc htaken busy).trans hf⟩

/-- A notice that finds room waits behind what egress offers (R142, R144). -/
theorem takeNotice_busy {s : State} (n : Notice) (busy : s.trb.framer ≠ .idle) (hroom : s.dlv.notices.length < 16) :
    takeNotice n s =
      { s with dlv := { s.dlv with notices := s.dlv.notices ++ [{ n with lost := s.dlv.lost }], lost := 0 } } := by
  rw [takeNotice, if_pos hroom, arbitrate_busy (by exact busy)]

/-! ### Ingress words (R154, R156, R176) -/

theorem exec_ingressWord_ready {s : State} (hready : ireadyPin s = true) (k : WordKind) (w : Word) :
    exec (.ingressWord k w) s = .next (takeIngressWord k w s) := by
  rw [exec_eq_next, nextState_ingressWord, if_pos hready]

/-- The destination that a first HEAD word names, by its kind code (11.2). -/
theorem firstHeadOf_dest (w : Word) :
    (w.extractLsb' 8 2 = 0 → ∃ k, (firstHeadOf w).dest = .station k ∧ k.val = (w.extractLsb' 16 4).toNat) ∧
      (w.extractLsb' 8 2 = 1 → ∃ g, (firstHeadOf w).dest = .group g ∧ g.val = (w.extractLsb' 16 3).toNat) ∧
      (w.extractLsb' 8 2 = 2 → (firstHeadOf w).dest = .all) ∧
      (w.extractLsb' 8 2 = 3 → ∃ k, (firstHeadOf w).dest = .reserved k) := by
  have hdest : (firstHeadOf w).dest = destOf (w.extractLsb' 8 2) (w.extractLsb' 16 4) := rfl
  rw [hdest]
  refine ⟨fun h => ?_, fun h => ?_, fun h => (destOf_eq_all_iff _ _).mpr h, fun h => ?_⟩
  · exact ⟨(w.extractLsb' 16 4).toFin, (destOf_eq_station_iff _ _ _).mpr ⟨h, rfl⟩, rfl⟩
  · have hnum : ((w.extractLsb' 16 4).setWidth 3).toNat = (w.extractLsb' 16 3).toNat := by
      simp only [BitVec.toNat_setWidth, BitVec.extractLsb'_toNat]
      omega
    exact ⟨(w.extractLsb' 16 3).toFin, (destOf_eq_group_iff _ _ _).mpr ⟨h, hnum⟩, rfl⟩
  · exact ⟨(w.extractLsb' 16 4).toFin, (destOf_eq_reserved_iff _ _ _).mpr ⟨h, rfl⟩⟩

/-- A TAIL word in PAYLOAD is handed on in the last place alone, and leads to IDLE from every place (R156). -/
theorem takeTail_payload {s : State} {e n : Nat} (w : Word) (hp : s.trb.parser = .payload e n) :
    takeTail w s = setParser .idle
      (if n + 1 = e then messageEnd .wellFormed (payloadTaken w s) else messageEnd .malformed s) := by
  rw [takeTail, hp]
  exact (apply_ite (setParser .idle) _ _ _).symm

end Sys2Proof.Machine

open Sys2Proof Sys2Proof.Machine

/-- Settles O5: the four commands by their equations, and the ports closed by the pin. -/
theorem powerAndResetPin : Obligations.PowerAndResetPin := by
  refine ⟨⟨fun s => rfl, fun s => ?_, fun s => rfl, fun s hpin => ?_, fun s hpin => ?_⟩, fun s hpin => ?_⟩
  · refine ⟨nextState .resetPinAssert s, exec_eq_next _ s, ?_, rfl, ireadyPin_pinned rfl, evalidPin_pinned rfl,
      attnPin_pinned rfl, misoBit_pinned rfl⟩
    rw [nextState_resetPinAssert, framerAfterReset_beq_breakPending, framerAfterReset_eq]
    rfl
  · refine ⟨{ s with cleaning := false, breakHeld := false }, ?_, rfl, (ireadyPin_iff _).mpr ⟨hpin, rfl⟩,
      fun hf => ?_⟩
    · rw [exec_eq_next, nextState_cleanUpComplete, hpin, if_neg Bool.false_ne_true]
    · exact BreakOffered.offeredWord_eq ⟨hpin, rfl, hf⟩
  · rw [exec_eq_next, nextState_cleanUpComplete, if_pos hpin]
  · have closed (c : Instr) (hc : isPortCommand c = true) : exec c s = .next s := by
      rw [exec_eq_next, nextState_pinned hpin hc]
    exact ⟨fun t => closed _ rfl, closed _ rfl, fun c => closed _ rfl, closed _ rfl, fun k => closed _ rfl,
      fun t a v => closed _ rfl, closed _ rfl, fun c => closed _ rfl, fun a => closed _ rfl, fun k w => closed _ rfl,
      closed _ rfl⟩

/-- Settles O7: SOFT RESET leaves a BREAK offered where egress was busy, and every command but its taking keeps it. -/
theorem softResetBreaksEmission : Obligations.SoftResetBreaksEmission := by
  refine ⟨fun s rec i hpin hheld hf => ?_, fun s hpin hf => ?_, fun s hpin hheld hf => ?_,
    fun c s hpin hheld hf htaken hpower hassert => ?_, fun n s hf hroom => ?_, fun s hpin hheld hf => ?_⟩
  · have h : BreakOffered (softResetCommand s) := breakOffered_softReset hpin hheld (by simp [hf])
    exact ⟨_, exec_softReset_unpinned hpin, h.framer_eq, h.evalidPin_eq, h.offeredWord_eq, rfl⟩
  · have hidle : (softResetCommand s).trb.framer = .idle := (framerAfterReset_eq _).trans (if_pos hf)
    refine ⟨_, exec_softReset_unpinned hpin, hidle, ?_⟩
    simp [offeredWord, evalidPin_idle _ hidle]
  · have h : BreakOffered (softResetCommand s) := breakOffered_softReset hpin hheld (by simp [hf])
    exact ⟨_, exec_softReset_unpinned hpin, h.framer_eq, h.offeredWord_eq⟩
  · have h : BreakOffered (nextState c s) := BreakOffered.kept ⟨hpin, hheld, hf⟩ htaken hpower hassert
    exact ⟨_, exec_eq_next c s, h.framer_eq, h.offeredWord_eq⟩
  · rw [takeNotice_busy n (by simp [hf]) hroom]
    exact ⟨rfl, rfl⟩
  · rw [exec_eq_next, BreakOffered.nextState_taken ⟨hpin, hheld, hf⟩]

/-- Settles O44: the fields of the words, then the table of R156 row by row. -/
theorem ingressWordTaken : Obligations.IngressWordTaken := by
  refine ⟨⟨ireadyPin_iff, fun w => ?_, rfl, fun len hlen => if_neg (by omega)⟩, fun k w s hlow => ?_,
    fun w s hready => ?_⟩
  · obtain ⟨hstation, hgroup, hall, hreserved⟩ := firstHeadOf_dest w
    exact ⟨rfl, rfl, hstation, hgroup, hall, hreserved, rfl, rfl, rfl⟩
  · rw [exec_eq_next, nextState_ingressWord, hlow, if_neg Bool.false_ne_true]
  · intro goes header bad
    simp only [exec_ingressWord_ready hready]
    refine ⟨fun hp => ?idle, fun h hp => ?header, fun e n hp => ?payload, fun hp => ?overrun, fun c hp => ?stray,
      fun hp => ?skip⟩
    case payload =>
      have htail : takeIngressWord .tail w s = _ := takeTail_payload w hp
      rw [htail]
      unfold takeIngressWord takeHead takeBody takeBreak
      rw [hp]
      exact ⟨rfl, rfl, rfl, rfl⟩
    all_goals
      unfold takeIngressWord takeHead takeBody takeTail takeBreak
      rw [hp]
      exact ⟨rfl, rfl, rfl, rfl⟩
end

section
/-! SUPPORT. The completed write (R165, R166, R168, R171, R177) by the kind of its address: a setting, the mask, an
address that takes nothing, and COMMAND. -/

namespace Sys2Proof.Machine

theorem getLsbD_below {v w i : Nat} (hi : BitVec v) (lo : BitVec w) (h : i < w) :
    BitVec.getLsbD (no_index (hi ++ lo)) i = lo.getLsbD i := by
  rw [BitVec.getLsbD_append, if_pos h]

/-- A value read back from six flags keeps the bits that hold them (11.3, R177). -/
theorem EventFlags.toHalf_ofHalf (v : Half) : (EventFlags.ofHalf v).toHalf = v &&& 0x003F := by
  refine BitVec.eq_of_getLsbD_eq fun i hi => ?_
  interval_cases i <;>
    simp [EventFlags.toHalf, EventFlags.ofHalf, getLsbD_above, getLsbD_below, -BitVec.getLsbD_eq_getElem]

/-- The addresses of the profile, of the local settings and of the steering entries (11.3). -/
theorem isSettingAddr_iff (addr : Nat) : isSettingAddr addr = true ↔
    (0x10 ≤ addr ∧ addr ≤ 0x16) ∨ (0x18 ≤ addr ∧ addr ≤ 0x1B) ∨ (0x20 ≤ addr ∧ addr ≤ 0x3F) := by
  simp only [isSettingAddr, Bool.and_eq_true, decide_eq_true_eq, bne_iff_ne]
  omega

section
variable {t : Time} {a : BitVec 7} {v : Half} {s : State}

theorem exec_registerWrite_unpinned (hpin : s.pins.resetPin = false) :
    exec (.registerWrite t a v) s = .next (writeRegister t a v (endRead s)) := by
  rw [exec_eq_next, nextState_registerWrite, hpin, if_neg Bool.false_ne_true]

theorem exec_unknownCommand_unpinned (hpin : s.pins.resetPin = false) {k : BitVec 4} (hk : k = 0 ∨ 5 ≤ k.toNat) :
    exec (.unknownCommand k) s = .next (refuseCommand (endRead s)) := by
  rw [exec_eq_next, nextState_unknownCommand, hpin, if_neg Bool.false_ne_true, if_pos hk]

theorem writeRegister_setting (hset : isSettingAddr a.toNat = true) : writeRegister t a v s =
    if s.cyc.state = .config then
      { s with mgt := { s.mgt with
        profile := writeProfile a.toNat v s.mgt.profile, settings := writeLocal a.toNat v s.mgt.settings } }
    else refuseCommand s := by
  have hcommand : a ≠ 0x00 := by rintro rfl; cases hset
  have hmask : a ≠ 0x02 := by rintro rfl; cases hset
  rw [writeRegister, if_neg hcommand, if_neg hmask, if_pos hset]

theorem writeRegister_ignored (hcommand : a ≠ 0x00) (hmask : a ≠ 0x02) (hset : isSettingAddr a.toNat = false) :
    writeRegister t a v s = s := by
  rw [writeRegister, if_neg hcommand, if_neg hmask, hset, if_neg Bool.false_ne_true]

end

/-! ### COMMAND (R168, R177) -/

/-- A command field names one of the four commands, or none. -/
theorem commandCode_cases (k : BitVec 4) :
    k.toNat = 1 ∨ k.toNat = 2 ∨ k.toNat = 3 ∨ k.toNat = 4 ∨ (k = 0 ∨ 5 ≤ k.toNat) := by
  revert k; decide

/-- A field that names no command has none of the four codes. -/
theorem commandCode_ne {k : BitVec 4} (h : k = 0 ∨ 5 ≤ k.toNat) {n : Nat} (hlow : 1 ≤ n) (hhigh : n ≤ 4) :
    k.toNat ≠ n := by
  rcases h with rfl | h
  · exact (Nat.ne_of_gt hlow).symm
  · omega

section
variable {v : Half} (hv : v.extractLsb' 0 4 = 0 ∨ 5 ≤ (v.extractLsb' 0 4).toNat)
include hv

theorem writeCommand_unnamed (t : Time) : writeCommand t 0x00 v = .unknownCommand (v.extractLsb' 0 4) := by
  rw [writeCommand, if_pos rfl]
  split
  case h_5 => rfl
  all_goals exact absurd ‹_ = _› (commandCode_ne hv (by decide) (by decide))

theorem commandWrite_unnamed (t : Time) (s : State) : commandWrite t v s = refuseCommand s := by
  rw [commandWrite]
  split
  case h_5 => rfl
  all_goals exact absurd ‹_ = _› (commandCode_ne hv (by decide) (by decide))

end

/-- The command that a completed write is does what the write does, at COMMAND as elsewhere (R165, R168). -/
theorem exec_writeCommand (t : Time) (a : BitVec 7) (v : Half) (s : State) :
    exec (writeCommand t a v) s = exec (.registerWrite t a v) s := by
  by_cases ha : a = 0x00
  case neg => rw [writeCommand, if_neg ha]
  subst ha
  rw [exec_eq_next, exec_eq_next, nextState_registerWrite, writeRegister, if_pos rfl]
  rcases commandCode_cases (v.extractLsb' 0 4) with h | h | h | h | hunnamed
  case inr.inr.inr.inr =>
    rw [writeCommand_unnamed hunnamed, commandWrite_unnamed hunnamed, nextState_unknownCommand, if_pos hunnamed]
  all_goals
    simp only [writeCommand, commandWrite, h]
    rfl

end Sys2Proof.Machine

open Sys2Proof Sys2Proof.Machine

/-- Settles O12: the addresses one kind after another, and a write to COMMAND as the command it is. -/
theorem otherRegisterWrites : Obligations.OtherRegisterWrites := by
  intro t s hpin
  refine ⟨fun a v hset hstate => ?_, fun v => ?_, fun a v hcommand hmask hset => ?_, fun v h => ?_, fun v h => ?_,
    fun v h => ?_, fun v h => ?_, fun v h => ?_, fun k hk => exec_unknownCommand_unpinned hpin hk⟩
  · rw [exec_registerWrite_unpinned hpin, writeRegister_setting hset, if_neg (by exact hstate)]
    rfl
  · exact ⟨_, exec_registerWrite_unpinned hpin, rfl, EventFlags.toHalf_ofHalf v⟩
  · rw [exec_registerWrite_unpinned hpin, writeRegister_ignored hcommand hmask hset]
    rfl
  case refine_8 => rw [← exec_writeCommand, writeCommand_unnamed h]
  all_goals
    rw [← exec_writeCommand]
    simp only [writeCommand, h]
    rfl

end

section
/-! SUPPORT. The profile and the local settings as the registers 0x10 to 0x3F hold them (R166, R177, 11.3): the fields,
and what a setting written leaves in its own register and in the others. -/

namespace Sys2Proof.Machine

/-! ### The bits that a register keeps -/

/-- A value stored in a field of `n` bits keeps its lowest `n` bits. -/
theorem setWidth_setWidth_eq_and (v : Half) {n : Nat} (hn : n ≤ 16) :
    (v.setWidth n).setWidth 16 = v &&& BitVec.ofNat 16 (2 ^ n - 1) := by
  have hpow : 2 ^ n ≤ 2 ^ 16 := Nat.pow_le_pow_right (by decide) hn
  have hpos : 0 < 2 ^ n := Nat.two_pow_pos n
  have hmask : (2 ^ n - 1) % 2 ^ 16 = 2 ^ n - 1 := Nat.mod_eq_of_lt (by omega)
  apply BitVec.eq_of_toNat_eq
  rw [BitVec.toNat_setWidth_of_le hn, BitVec.toNat_setWidth, BitVec.toNat_and, BitVec.toNat_ofNat, hmask,
    Nat.and_two_pow_sub_one_eq_mod]

theorem toNat_setWidth_half {n : Nat} (x : BitVec n) (hn : n ≤ 16) : (x.setWidth 16).toNat = x.toNat :=
  BitVec.toNat_setWidth_of_le hn

/-- DELIVERY keeps its bits 0, 1 and 4. -/
theorem delivery_eq_and (v : Half) :
    (0#11 ++ BitVec.ofBool (v.getLsbD 4) ++ 0#2 ++ v.setWidth 2 : Half) = v &&& 0x0013 := by
  refine BitVec.eq_of_getLsbD_eq fun i hi => ?_
  interval_cases i <;> simp [getLsbD_above, getLsbD_below, -BitVec.getLsbD_eq_getElem]

theorem weights_eq (v : Half) :
    (v.extractLsb' 12 4 ++ v.extractLsb' 8 4 ++ v.extractLsb' 4 4 ++ v.extractLsb' 0 4 : Half) = v := by
  refine BitVec.eq_of_getLsbD_eq fun i hi => ?_
  interval_cases i <;> simp [getLsbD_above, getLsbD_below, -BitVec.getLsbD_eq_getElem]

/-! ### Steering entries -/

theorem steerA_writeSteerA (v : Half) (e : SteerEntry) : steerA (writeSteerA v e) = v &&& 0xF71F := by
  refine BitVec.eq_of_getLsbD_eq fun i hi => ?_
  interval_cases i <;> simp [steerA, writeSteerA, getLsbD_above, getLsbD_below, -BitVec.getLsbD_eq_getElem]

theorem steerB_writeSteerB (v : Half) (e : SteerEntry) : steerB (writeSteerB v e) = v := by
  refine BitVec.eq_of_getLsbD_eq fun i hi => ?_
  interval_cases i <;> simp [steerB, writeSteerB, getLsbD_above, getLsbD_below, -BitVec.getLsbD_eq_getElem]

theorem steerA_writeSteerB (v : Half) (e : SteerEntry) : steerA (writeSteerB v e) = steerA e := rfl

theorem steerB_writeSteerA (v : Half) (e : SteerEntry) : steerB (writeSteerA v e) = steerB e := rfl

theorem steerA_fields (x : SteerEntry) :
    (steerA x).getLsbD 15 = x.valid ∧ (steerA x).extractLsb' 12 3 = x.action ∧
      (steerA x).extractLsb' 8 3 = x.clsM ∧ (steerA x).extractLsb' 0 5 = x.srcM := by
  simp [steerA, extractLsb'_above, extractLsb'_low, getLsbD_above, -BitVec.getLsbD_eq_getElem]

theorem steerB_fields (x : SteerEntry) :
    (steerB x).extractLsb' 8 8 = x.tagV ∧ (steerB x).extractLsb' 0 8 = x.tagMask := by
  simp [steerB, extractLsb'_above, extractLsb'_low]

section
variable {l : LocalSettings} {e : Nat} (x : SteerEntry)

theorem steerEntry_set_self (he : e < l.steer.length) : steerEntry { l with steer := l.steer.set e x } e = x := by
  simp [steerEntry, he]

theorem steerEntry_set_of_ne {d : Nat} (hd : d ≠ e) :
    steerEntry { l with steer := l.steer.set e x } d = steerEntry l d := by
  simp [steerEntry, List.getElem?_set_ne hd.symm]

end

/-! ### Registers by block: the profile, the local settings, the steering entries -/

section
variable {p p' : Profile} {l l' : LocalSettings} {a : Nat} (v : Half)

theorem readSetting_profile (hlow : 0x10 ≤ a) (hhigh : a ≤ 0x16) : readSetting p l a = readSetting p l' a := by
  interval_cases a <;> rfl

theorem readSetting_steering (hlow : 0x20 ≤ a) (hhigh : a ≤ 0x3F) : readSetting p l a =
    if a % 2 = 0 then steerA (steerEntry l ((a - 0x20) / 2)) else steerB (steerEntry l ((a - 0x20) / 2)) := by
  obtain ⟨n, rfl⟩ := Nat.exists_eq_add_of_le' hlow
  exact if_pos ⟨hlow, hhigh⟩

theorem readSetting_local (ha : (0x18 ≤ a ∧ a ≤ 0x1B) ∨ (0x20 ≤ a ∧ a ≤ 0x3F)) :
    readSetting p l a = readSetting p' l a := by
  rcases ha with ⟨hlow, hhigh⟩ | ⟨hlow, hhigh⟩
  · interval_cases a <;> rfl
  · rw [readSetting_steering hlow hhigh, readSetting_steering hlow hhigh]

theorem fieldMask_steering (hlow : 0x20 ≤ a) : fieldMask a = if a % 2 = 0 then 0xF71F else 0xFFFF := by
  unfold fieldMask
  iterate 7 rw [if_neg (by omega)]

theorem writeProfile_local (hlow : 0x18 ≤ a) : writeProfile a v p = p := by
  obtain ⟨n, rfl⟩ := Nat.exists_eq_add_of_le' hlow
  rfl

theorem writeLocal_profile (hlow : 0x10 ≤ a) (hhigh : a ≤ 0x16) : writeLocal a v l = l := by
  interval_cases a <;> rfl

theorem writeLocal_steering (hlow : 0x20 ≤ a) (hhigh : a ≤ 0x3F) : writeLocal a v l =
    { l with
      steer := l.steer.set ((a - 0x20) / 2)
        (if a % 2 = 0 then writeSteerA v (steerEntry l ((a - 0x20) / 2))
          else writeSteerB v (steerEntry l ((a - 0x20) / 2))) } := by
  obtain ⟨n, rfl⟩ := Nat.exists_eq_add_of_le' hlow
  exact if_pos ⟨hlow, hhigh⟩

theorem writeLocal_steer_eq (hlow : 0x18 ≤ a) (hhigh : a ≤ 0x1B) : (writeLocal a v l).steer = l.steer := by
  interval_cases a <;> rfl

/-! ### A setting written reads back in its own register, and in no other -/

theorem readSetting_written (hl : l.steer.length = 16) (hset : isSettingAddr a = true) :
    readSetting (writeProfile a v p) (writeLocal a v l) a = v &&& fieldMask a := by
  rcases (isSettingAddr_iff a).mp hset with ⟨hlow, hhigh⟩ | ⟨hlow, hhigh⟩ | ⟨hlow, hhigh⟩
  · interval_cases a <;> exact setWidth_setWidth_eq_and v (by decide)
  · interval_cases a
    · exact setWidth_setWidth_eq_and v (by decide)
    · exact setWidth_setWidth_eq_and v (by decide)
    · exact delivery_eq_and v
    · exact (weights_eq v).trans BitVec.and_allOnes.symm
  · have hentry : (a - 0x20) / 2 < l.steer.length := by omega
    rw [readSetting_steering hlow hhigh, writeLocal_steering v hlow hhigh, steerEntry_set_self _ hentry,
      fieldMask_steering hlow]
    split
    · exact steerA_writeSteerA v _
    · exact (steerB_writeSteerB v _).trans BitVec.and_allOnes.symm

section
variable {b : Nat} (hne : b ≠ a)
include hne

theorem readSetting_writeProfile_of_ne (ha : 0x10 ≤ a ∧ a ≤ 0x16) (hb : 0x10 ≤ b ∧ b ≤ 0x16) :
    readSetting (writeProfile a v p) l b = readSetting p l b := by
  obtain ⟨halow, hahigh⟩ := ha
  obtain ⟨hblow, hbhigh⟩ := hb
  interval_cases a <;> interval_cases b <;> first | rfl | exact absurd rfl hne

/-- The two registers of one steering entry are written apart, and so are two entries. -/
theorem readSetting_writeLocal_steering_of_ne (hl : l.steer.length = 16) (ha : 0x20 ≤ a ∧ a ≤ 0x3F)
    (hb : 0x20 ≤ b ∧ b ≤ 0x3F) : readSetting p (writeLocal a v l) b = readSetting p l b := by
  obtain ⟨halow, hahigh⟩ := ha
  obtain ⟨hblow, hbhigh⟩ := hb
  rw [readSetting_steering hblow hbhigh, readSetting_steering hblow hbhigh, writeLocal_steering v halow hahigh]
  have hlength : (a - 0x20) / 2 < l.steer.length := by omega
  by_cases hentry : (b - 0x20) / 2 = (a - 0x20) / 2
  · rw [hentry, steerEntry_set_self _ hlength]
    by_cases heven : a % 2 = 0
    · have hodd : ¬b % 2 = 0 := by omega
      rw [if_pos heven, if_neg hodd, if_neg hodd, steerB_writeSteerA]
    · have heven' : b % 2 = 0 := by omega
      rw [if_neg heven, if_pos heven', if_pos heven', steerA_writeSteerB]
  · rw [steerEntry_set_of_ne _ hentry]

theorem readSetting_writeLocal_of_ne (hl : l.steer.length = 16)
    (ha : (0x18 ≤ a ∧ a ≤ 0x1B) ∨ (0x20 ≤ a ∧ a ≤ 0x3F)) (hb : (0x18 ≤ b ∧ b ≤ 0x1B) ∨ (0x20 ≤ b ∧ b ≤ 0x3F)) :
    readSetting p (writeLocal a v l) b = readSetting p l b := by
  rcases ha with ⟨halow, hahigh⟩ | ha <;> rcases hb with ⟨hblow, hbhigh⟩ | hb
  · interval_cases a <;> interval_cases b <;> first | rfl | exact absurd rfl hne
  · obtain ⟨hblow, hbhigh⟩ := hb
    rw [readSetting_steering hblow hbhigh, readSetting_steering hblow hbhigh, steerEntry, steerEntry,
      writeLocal_steer_eq v halow hahigh]
  · obtain ⟨halow, hahigh⟩ := ha
    rw [writeLocal_steering v halow hahigh]
    interval_cases b <;> rfl
  · exact readSetting_writeLocal_steering_of_ne v hne hl ha hb

theorem readSetting_written_of_ne (hl : l.steer.length = 16) (ha : isSettingAddr a = true)
    (hb : isSettingAddr b = true) :
    readSetting (writeProfile a v p) (writeLocal a v l) b = readSetting p l b := by
  rcases (isSettingAddr_iff a).mp ha with ha | ha <;> rcases (isSettingAddr_iff b).mp hb with hb | hb
  · rw [writeLocal_profile v ha.1 ha.2, readSetting_writeProfile_of_ne v hne ha hb]
  · rw [writeLocal_profile v ha.1 ha.2, readSetting_local hb]
  · rw [writeProfile_local v (by omega), readSetting_profile hb.1 hb.2]
  · rw [writeProfile_local v (by omega), readSetting_writeLocal_of_ne v hne hl ha hb]

end
end

/-! ### The registers of the management port -/

/-- The addresses from 0x10 to 0x3F hold the settings (11.3). -/
theorem readRegister_setting {s : State} {a : BitVec 7} (hset : isSettingAddr a.toNat = true) :
    readRegister s a = readSetting s.mgt.profile s.mgt.settings a.toNat := by
  have haddr := (isSettingAddr_iff a.toNat).mp hset
  obtain ⟨n, hn⟩ : ∃ n, a.toNat = n + 0x10 := ⟨a.toNat - 0x10, by omega⟩
  rw [readRegister, counterOfAddr_eq_none (by omega), hn]
  rfl

/-- The registers of the profile and of the local settings before the steering entries, field by field (11.3). -/
theorem readRegister_profile_fields (s : State) :
    (readRegister s 0x10).toNat = s.mgt.profile.lineSize ∧ (readRegister s 0x11).toNat = s.mgt.profile.budget ∧
    (readRegister s 0x12).toNat = s.mgt.profile.cap ∧ (readRegister s 0x13).toNat = s.mgt.profile.quantum 1 ∧
    (readRegister s 0x14).toNat = s.mgt.profile.quantum 2 ∧ (readRegister s 0x15).toNat = s.mgt.profile.quantum 3 ∧
    (readRegister s 0x16).toNat = s.mgt.profile.limit ∧ (readRegister s 0x18).toNat = (ownNumber s).val := by
  refine ⟨?_, ?_, ?_, ?_, ?_, ?_, ?_, ?_⟩ <;> exact toNat_setWidth_half _ (by decide)

theorem readRegister_groups (s : State) {g : Nat} (hg : g < 8) :
    (readRegister s 0x19).getLsbD g = s.mgt.settings.groups.getLsbD g := by
  have hvalue : readRegister s 0x19 = s.mgt.settings.groups.setWidth 16 := rfl
  have hg' : g < 16 := by omega
  rw [hvalue, BitVec.getLsbD_setWidth, decide_eq_true hg', Bool.true_and]

theorem readRegister_delivery (s : State) :
    (readRegister s 0x1A).extractLsb' 0 2 = s.mgt.settings.mode ∧
      (readRegister s 0x1A).getLsbD 4 = s.mgt.settings.damaged := by
  have hvalue : readRegister s 0x1A =
      0#11 ++ BitVec.ofBool s.mgt.settings.damaged ++ 0#2 ++ s.mgt.settings.mode := rfl
  rw [hvalue]
  simp [extractLsb'_low, getLsbD_above, getLsbD_below, -BitVec.getLsbD_eq_getElem]

theorem readRegister_weights (s : State) (q : Sys2Proof.Class) :
    (readRegister s 0x1B).extractLsb' (4 * q.val) 4 = s.mgt.settings.weights.get q := by
  have hvalue : readRegister s 0x1B = s.mgt.settings.weights.c3 ++ s.mgt.settings.weights.c2 ++
      s.mgt.settings.weights.c1 ++ s.mgt.settings.weights.c0 := rfl
  rw [hvalue]
  fin_cases q <;> simp [extractLsb'_above, extractLsb'_low, Four.get]

/-- The two registers of steering entry `e` (11.3). -/
theorem readRegister_steeringEntry {s : State} (e : Fin 16) {x : SteerEntry}
    (hx : s.mgt.settings.steer[e.val]? = some x) :
    readRegister s (BitVec.ofNat 7 (0x20 + 2 * e.val)) = steerA x ∧
      readRegister s (BitVec.ofNat 7 (0x21 + 2 * e.val)) = steerB x := by
  have he := e.isLt
  have hentry : steerEntry s.mgt.settings e.val = x := by
    rw [steerEntry, List.getD_eq_getElem?_getD, hx, Option.getD_some]
  have hA : (BitVec.ofNat 7 (0x20 + 2 * e.val)).toNat = 0x20 + 2 * e.val := Nat.mod_eq_of_lt (by omega)
  have hB : (BitVec.ofNat 7 (0x21 + 2 * e.val)).toNat = 0x21 + 2 * e.val := Nat.mod_eq_of_lt (by omega)
  constructor
  · rw [readRegister_steering (by omega) (by omega), hA, if_pos (by omega),
      show (0x20 + 2 * e.val - 0x20) / 2 = e.val by omega, hentry]
  · rw [readRegister_steering (by omega) (by omega), hB, if_neg (by omega),
      show (0x21 + 2 * e.val - 0x20) / 2 = e.val by omega, hentry]

end Sys2Proof.Machine

open Sys2Proof Sys2Proof.Machine

/-- Settles O11: the masks and the fields of 11.3, and a setting written block by block. -/
theorem settingWriteReadsBack : Obligations.SettingWriteReadsBack := by
  refine ⟨by decide, by decide, fun a => isSettingAddr_iff a.toNat, fun s => ?_, fun t a v s hpin hstate hl hset => ?_⟩
  · obtain ⟨hn, hb, ha, hq1, hq2, hq3, hsilence, hstation⟩ := readRegister_profile_fields s
    obtain ⟨hmode, hdamaged⟩ := readRegister_delivery s
    refine ⟨hn, hb, ha, hq1, hq2, hq3, hsilence, hstation, fun g => readRegister_groups s, hmode, hdamaged,
      readRegister_weights s, fun e x hx => ?_⟩
    obtain ⟨hA, hB⟩ := readRegister_steeringEntry e hx
    obtain ⟨hvalid, haction, hcls, hsrc⟩ := steerA_fields x
    obtain ⟨htag, hmask⟩ := steerB_fields x
    simp only [hA, hB]
    exact ⟨hvalid, haction, hcls, hsrc, htag, hmask⟩
  · refine ⟨_, exec_registerWrite_unpinned hpin, ?_⟩
    rw [writeRegister_setting hset, if_pos (by exact hstate)]
    refine ⟨rfl, ?_, fun b hne hb => ?_⟩
    · rw [readRegister_setting hset]
      exact readSetting_written v hl hset
    · rw [readRegister_setting hb, readRegister_setting hb]
      exact readSetting_written_of_ne v (fun h => hne (BitVec.eq_of_toNat_eq h)) hl hset hb

end

section
/-! SUPPORT. The registers that are read (R165, R167, R170 to R173, R177, 11.3): the status registers field by field,
ATTN, the completions of a read, and the bits of a transaction. -/

namespace Sys2Proof.Machine

/-! ### Event flags and ATTN (R170, R171) -/

theorem EventFlags.toHalf_fields (f : EventFlags) :
    f.toHalf.getLsbD 0 = f.state ∧ f.toHalf.getLsbD 1 = f.halt ∧ f.toHalf.getLsbD 2 = f.joinRef ∧
      f.toHalf.getLsbD 3 = f.stepLoss ∧ f.toHalf.getLsbD 4 = f.noticeLoss ∧ f.toHalf.getLsbD 5 = f.cmdRef ∧
      f.toHalf.extractLsb' 6 10 = 0 := by
  simp [EventFlags.toHalf, extractLsb'_above, getLsbD_above, getLsbD_low, -BitVec.getLsbD_eq_getElem]

/-- Six flags are known by the flag of each event. -/
theorem EventFlags.eq_of_get {f g : EventFlags} (h : ∀ e, f.get e = g.get e) : f = g :=
  Eq.mpr (EventFlags.mk.injEq ..) ⟨h .state, h .halt, h .joinRef, h .stepLoss, h .noticeLoss, h .cmdRef⟩

theorem EventFlags.get_clear (e : Event) : EventFlags.clear.get e = false := by
  cases e <;> rfl

theorem eventsAfterRead_get (got now arisen : EventFlags) (e : Event) :
    (eventsAfterRead got now arisen).get e = (now.get e && !(got.get e && !arisen.get e)) := by
  cases e <;> rfl

/-- A read clears what it returned where nothing arose since. -/
theorem eventsAfterRead_quiet (got : EventFlags) : eventsAfterRead got got EventFlags.clear = EventFlags.clear := by
  refine EventFlags.eq_of_get fun e => ?_
  rw [eventsAfterRead_get, EventFlags.get_clear]
  cases got.get e <;> rfl

/-- An event whose cause arises after the capture outlives the read alone. -/
theorem eventsAfterRead_arisen (got : EventFlags) (e : Event) :
    eventsAfterRead got (got.set e true) (EventFlags.clear.set e true) = EventFlags.clear.set e true := by
  refine EventFlags.eq_of_get fun d => ?_
  rw [eventsAfterRead_get]
  by_cases hd : d = e
  · simp [hd]
  · rw [EventFlags.get_set_of_ne _ _ hd, EventFlags.get_set_of_ne _ _ hd, EventFlags.get_clear]
    cases got.get d <;> rfl

theorem unmaskedEvent_iff (events mask : EventFlags) :
    unmaskedEvent events mask = true ↔ ∃ e, events.get e = true ∧ mask.get e = false := by
  simp only [unmaskedEvent, Bool.or_eq_true, Bool.and_eq_true, Bool.not_eq_true']
  constructor
  · rintro (((((h | h) | h) | h) | h) | h)
    exacts [⟨.state, h⟩, ⟨.halt, h⟩, ⟨.joinRef, h⟩, ⟨.stepLoss, h⟩, ⟨.noticeLoss, h⟩, ⟨.cmdRef, h⟩]
  · rintro ⟨e, h⟩
    cases e <;> simp_all [EventFlags.get]

theorem attnPin_iff (s : State) : attnPin s = true ↔
    s.pins.resetPin = false ∧ ∃ e, s.mgt.events.get e = true ∧ s.mgt.mask.get e = false := by
  rw [attnPin, Bool.and_eq_true, Bool.not_eq_true', unmaskedEvent_iff]

/-! ### The status registers (R172, R177, 11.3) -/

theorem stationRegister_fields (c : Cyc) :
    (stationRegister c).extractLsb' 0 4 = c.state.code ∧ (stationRegister c).extractLsb' 4 3 = c.haltCause.code ∧
      (stationRegister c).getLsbD 8 = c.timingLock ∧ (stationRegister c).getLsbD 9 = c.eligibleLast ∧
      (stationRegister c).getLsbD 7 = false ∧ (stationRegister c).extractLsb' 10 6 = 0 := by
  simp [stationRegister, extractLsb'_above, extractLsb'_low, getLsbD_above, getLsbD_below,
    -BitVec.getLsbD_eq_getElem]

theorem depthPair_fields {low high : Nat} (hlow : low ≤ 255) (hhigh : high ≤ 255) :
    ((depthPair low high).extractLsb' 0 8).toNat = low ∧ ((depthPair low high).extractLsb' 8 8).toNat = high := by
  simp [depthPair, extractLsb'_above, extractLsb'_low, toNat_natByte hlow, toNat_natByte hhigh]

theorem readRegister_notices_fields (s : State) :
    (readRegister s 0x0C).extractLsb' 0 8 = natByte s.dlv.notices.length ∧
      (readRegister s 0x0C).extractLsb' 8 4 = s.mgt.refusal.code ∧ (readRegister s 0x0C).extractLsb' 12 4 = 0 := by
  have hvalue : readRegister s 0x0C = 0#4 ++ s.mgt.refusal.code ++ natByte s.dlv.notices.length := rfl
  rw [hvalue]
  simp [extractLsb'_above, extractLsb'_low]

theorem Profile.check_eq (p : Profile) : p.check = (crc16 ([p.lineSize, p.budget, p.cap, p.quantum 1, p.quantum 2,
    p.quantum 3, p.limit].map (BitVec.ofNat 8))).setWidth 8 := by
  simp only [Profile.check, Profile.lineSize, Profile.budget, Profile.cap, Profile.quantum, Profile.limit,
    List.map_cons, List.map_nil, BitVec.ofNat_toNat, BitVec.setWidth_eq]

/-- The counters stand up to 0x50. -/
theorem counterOfAddr_eq_none_of_high {a : BitVec 7} (h : 0x51 ≤ a.toNat) : counterOfAddr a = none := by
  rw [counterOfAddr, List.find?_eq_none]
  intro c _ hc
  have haddr : counterAddr c = a := by simpa using hc
  have hhigh : (counterAddr c).toNat ≤ 0x50 := by cases c <;> decide
  rw [haddr] at hhigh
  omega

theorem readSetting_high {p : Profile} {l : LocalSettings} {a : Nat} (h : 0x40 ≤ a) : readSetting p l a = 0 := by
  obtain ⟨n, rfl⟩ := Nat.exists_eq_add_of_le' h
  simp [readSetting]

/-- An address without a register reads 0 (R177). -/
theorem readRegister_empty (s : State) {a : BitVec 7}
    (ha : a.toNat ∈ [0x0E, 0x0F, 0x17, 0x1C, 0x1D, 0x1E, 0x1F] ∨ 0x51 ≤ a.toNat) : readRegister s a = 0 := by
  rcases ha with ha | ha
  · simp only [List.mem_cons, List.not_mem_nil, or_false] at ha
    rw [readRegister, counterOfAddr_eq_none (by omega)]
    rcases ha with ha | ha | ha | ha | ha | ha | ha <;> (rw [ha]; rfl)
  · obtain ⟨n, hn⟩ : ∃ n, a.toNat = n + 0x51 := ⟨a.toNat - 0x51, by omega⟩
    rw [readRegister, counterOfAddr_eq_none_of_high ha, hn]
    exact readSetting_high (by omega)

/-- The depths of the queues, as the capacities bound them (R97, R138, R141, 11.3). -/
theorem readRegister_depths {s : State} (h : CapacityLaw s) :
    ((readRegister s 0x08).extractLsb' 0 8).toNat = s.txq.queues.c0.length ∧
    ((readRegister s 0x08).extractLsb' 8 8).toNat = s.txq.queues.c1.length ∧
    ((readRegister s 0x09).extractLsb' 0 8).toNat = s.txq.queues.c2.length ∧
    ((readRegister s 0x09).extractLsb' 8 8).toNat = s.txq.queues.c3.length ∧
    ((readRegister s 0x0A).extractLsb' 0 8).toNat = s.dlv.queues.c0.length ∧
    ((readRegister s 0x0A).extractLsb' 8 8).toNat = s.dlv.queues.c1.length ∧
    ((readRegister s 0x0B).extractLsb' 0 8).toNat = s.dlv.queues.c2.length ∧
    ((readRegister s 0x0B).extractLsb' 8 8).toNat = s.dlv.queues.c3.length ∧
    ((readRegister s 0x0C).extractLsb' 0 8).toNat = s.dlv.notices.length := by
  obtain ⟨htxq, -, hdlv, hnotices, -⟩ := h
  have htx (c : Sys2Proof.Class) : (s.txq.queues.get c).length ≤ 255 := (htxq c).trans (by decide)
  have hdl (q : Sys2Proof.Class) : (s.dlv.queues.get q).length ≤ 255 := (hdlv q).trans (by decide)
  obtain ⟨h0, h1⟩ := depthPair_fields (htx 0) (htx 1)
  obtain ⟨h2, h3⟩ := depthPair_fields (htx 2) (htx 3)
  obtain ⟨h4, h5⟩ := depthPair_fields (hdl 0) (hdl 1)
  obtain ⟨h6, h7⟩ := depthPair_fields (hdl 2) (hdl 3)
  obtain ⟨hvalue, -, -⟩ := readRegister_notices_fields s
  refine ⟨h0, h1, h2, h3, h4, h5, h6, h7, ?_⟩
  rw [hvalue, toNat_natByte (by omega)]

/-! ### The completions of a read (R165, R171, R173) -/

section
variable {s : State} (hpin : s.pins.resetPin = false)
include hpin

theorem exec_readCapture_unpinned (a : BitVec 7) : exec (.readCapture a) s = .next (captureRead a s) := by
  rw [exec_eq_next, nextState_readCapture, hpin, if_neg Bool.false_ne_true]

theorem exec_eventsRead_unpinned {got : EventFlags} (hc : s.mgt.capture = some ⟨0x01, got.toHalf⟩) :
    exec .eventsRead s = .next (endRead { s with mgt := { s.mgt with
      events := eventsAfterRead got s.mgt.events s.mgt.arisen } }) := by
  rw [exec_eq_next, nextState_eventsRead, hpin, if_neg Bool.false_ne_true]
  simp only [completeEventsRead, hc, if_true, EventFlags.ofHalf_toHalf]

theorem exec_counterRead_unpinned {k : Counter} {v : Half} (hc : s.mgt.capture = some ⟨counterAddr k, v⟩) :
    exec (.counterRead k) s = .next (endRead { s with mgt := { s.mgt with
      counters := s.mgt.counters.set k (BitVec.ofNat 16 ((s.mgt.counters.get k).toNat - v.toNat)) } }) := by
  rw [exec_eq_next, nextState_counterRead, hpin, if_neg Bool.false_ne_true]
  simp only [completeCounterRead, hc, if_true]

end

theorem toNat_ofNat_sub (x y : Half) : (BitVec.ofNat 16 (x.toNat - y.toNat)).toNat = x.toNat - y.toNat :=
  Nat.mod_eq_of_lt (by omega)

/-- One increment raises a counter by 1, save at 65535 (R173). -/
theorem saturatingSucc_sub (v : Half) :
    (saturatingSucc v).toNat - v.toNat = if v = 0xFFFF then 0 else 1 := by
  by_cases hmax : v = 0xFFFF#16
  · rw [saturatingSucc, if_pos hmax, if_pos (by exact hmax), Nat.sub_self]
  · rw [saturatingSucc, if_neg hmax, if_neg (by exact hmax)]
    bv_omega

/-! ### The bits of a transaction (R165) -/

/-- From bit 8 on, a transaction shows its direction and its address. -/
theorem spiBits_take_fields (write : Bool) (a : BitVec 7) (v : Half) {n : Nat} (h : 8 ≤ n) (hn : n ≤ 24) :
    ((spiBits write a v).take n).length = n ∧ spiWrites ((spiBits write a v).take n) = write ∧
      spiAddr ((spiBits write a v).take n) = a := by
  obtain ⟨hlength, -, haddr, -⟩ := spiBits_fields write a v
  obtain ⟨m, rfl⟩ := Nat.exists_eq_add_of_le' h
  refine ⟨by rw [List.length_take, hlength]; omega, rfl, ?_⟩
  rw [spiAddr, List.drop_take, List.take_take, min_eq_left (by omega)]
  exact haddr

theorem spiEdge_capture (t : Time) (write : Bool) (a : BitVec 7) (v : Half) :
    spiEdge t ((spiBits write a v).take 8) = if write then none else some (.readCapture a) := by
  obtain ⟨hlength, hwrites, haddr⟩ := spiBits_take_fields write a v (n := 8) (by decide) (by decide)
  rw [spiEdge, if_pos hlength, hwrites, haddr]

theorem spiEdge_completion (t : Time) (write : Bool) (a : BitVec 7) (v : Half) :
    spiEdge t (spiBits write a v) = if write then some (writeCommand t a v) else readCommand a := by
  obtain ⟨hlength, hwrites, haddr, hdata⟩ := spiBits_fields write a v
  rw [spiEdge, hlength, if_neg (by decide), if_pos rfl, hwrites, haddr, hdata]

theorem counterOfAddr_eq_none_iff (a : BitVec 7) : counterOfAddr a = none ↔ ∀ k : Counter, a ≠ counterAddr k := by
  constructor
  · rintro h k rfl
    rw [counterOfAddr_counterAddr] at h
    cases h
  · intro h
    rw [counterOfAddr, List.find?_eq_none]
    intro k _ hk
    exact h k (eq_of_beq hk).symm

/-- Only EVENTS and the counters have something to do at the completion of their read (R171, R173). -/
theorem readCommand_cases (a : BitVec 7) :
    (a = 0x01 → readCommand a = some .eventsRead) ∧
      (∀ k : Counter, a = counterAddr k → readCommand a = some (.counterRead k)) ∧
      (a ≠ 0x01 → (∀ k : Counter, a ≠ counterAddr k) → readCommand a = none) := by
  refine ⟨fun h => if_pos h, fun k hk => ?_, fun h hk => ?_⟩
  · have hne : counterAddr k ≠ 0x01 := by cases k <;> decide
    rw [hk, readCommand, if_neg hne, counterOfAddr_counterAddr, Option.map_some]
  · rw [readCommand, if_neg h, (counterOfAddr_eq_none_iff a).mpr hk, Option.map_none]

/-- A value captured goes out from bit 9 on, most significant bit first (R165). -/
theorem misoBit_captured {s : State} (hpin : s.pins.resetPin = false) {a : BitVec 7} {x : Half}
    (hc : s.mgt.capture = some ⟨a, x⟩) (v : Half) {n : Nat} (h : 8 ≤ n) (hn : n < 24) :
    misoBit s (some ((spiBits false a v).take n)) = some (x.getLsbD (23 - n)) := by
  obtain ⟨hlength, hwrites, haddr⟩ := spiBits_take_fields false a v h hn.le
  simp only [misoBit, hc, hpin, hlength, hwrites, haddr]
  simp [h, hn]

end Sys2Proof.Machine

open Sys2Proof Sys2Proof.Machine

/-- Settles O13: codes, registers, the two reads that clear, and the transaction, each by its lemma. -/
theorem registerReads : Obligations.RegisterReads := by
  refine ⟨⟨rfl, rfl, rfl, rfl⟩, ⟨fun a s hpin => ?capture, fun s => ?status, fun s x hx => ?flags⟩,
    ⟨fun s got hpin hc => ?events, fun s hpin => ?quiet, fun e s t u hpin ht hu => ?arisen⟩,
    ⟨fun k v s hpin hc hv => ?counter, fun k s hpin => ?counted⟩, fun t a v => ?edges⟩
  case capture =>
    exact ⟨_, exec_readCapture_unpinned hpin a, rfl, rfl, fun v n => misoBit_captured (s := captureRead a s) hpin rfl v⟩
  case status =>
    obtain ⟨hstate, hcause, hlock, heligible, hzero, hrest⟩ := stationRegister_fields s.cyc
    obtain ⟨-, hrefusal, hunused⟩ := readRegister_notices_fields s
    exact ⟨rfl, rfl, memberBits_getLsbD _, fun h => Nat.mod_eq_of_lt (by omega), fun h => Nat.mod_eq_of_lt (by omega),
      hstate, hcause, hlock, heligible, hzero, hrest, hrefusal, hunused, rfl, Profile.check_eq _,
      fun a ha => readRegister_empty s ha, attnPin_iff s, readRegister_counter s, readRegister_depths⟩
  case flags =>
    simp only [List.mem_cons, List.not_mem_nil, or_false] at hx
    rcases hx with rfl | rfl
    · exact EventFlags.toHalf_fields _
    · exact EventFlags.toHalf_fields _
  case events =>
    exact ⟨_, exec_eventsRead_unpinned hpin hc, rfl, eventsAfterRead_get got _ _⟩
  case quiet =>
    exact ⟨_, _, exec_readCapture_unpinned hpin _,
      exec_eventsRead_unpinned (s := captureRead 0x01 s) (got := s.mgt.events) hpin rfl, eventsAfterRead_quiet _⟩
  case arisen =>
    rw [exec_readCapture_unpinned hpin] at ht
    obtain rfl := Host.Outcome.next.inj ht
    rw [exec_eventsRead_unpinned (s := raiseEvent e (captureRead 0x01 s)) (got := s.mgt.events) hpin rfl] at hu
    obtain rfl := Host.Outcome.next.inj hu
    exact eventsAfterRead_arisen _ e
  case counter =>
    refine ⟨_, exec_counterRead_unpinned hpin hc, rfl, ?_, fun j hj => Counters.get_set_of_ne _ _ hj⟩
    exact (congrArg BitVec.toNat (Counters.get_set_self _ k _)).trans (toNat_ofNat_sub _ _)
  case counted =>
    have hcapture : (countEvent k (captureRead (counterAddr k) s)).mgt.capture =
        some ⟨counterAddr k, s.mgt.counters.get k⟩ := by
      rw [← readRegister_counter]
      rfl
    have hcounter : (countEvent k (captureRead (counterAddr k) s)).mgt.counters.get k =
        saturatingSucc (s.mgt.counters.get k) := Counters.get_set_self _ k _
    refine ⟨_, _, exec_readCapture_unpinned hpin _, exec_counterRead_unpinned (by exact hpin) hcapture, ?_⟩
    calc _ = (BitVec.ofNat 16 ((saturatingSucc (s.mgt.counters.get k)).toNat - (s.mgt.counters.get k).toNat)).toNat :=
          congrArg BitVec.toNat ((Counters.get_set_self _ k _).trans (by rw [hcounter]))
      _ = _ := (toNat_ofNat_sub _ _).trans (saturatingSucc_sub _)
  case edges =>
    rw [spiEdge_completion, spiEdge_completion, spiEdge_capture, spiEdge_capture]
    obtain ⟨hevents, hcounter, hother⟩ := readCommand_cases a
    refine ⟨⟨_, rfl, fun ha => if_neg ha, exec_writeCommand t a v⟩, rfl, rfl, hevents, hcounter, hother,
      fun bits h8 h24 => ?_⟩
    rw [spiEdge, if_neg h8, if_neg h24]

end

section
/-! SUPPORT. The queue of commands: what takes a command from it, and that no command's own effect touches it
(notes/assumptions/4.md). -/

namespace Sys2Proof.Machine

/-! ### The step takes the front of the queue -/

theorem step_of_waiting {c : Instr} {rest : List Instr} {s : State} (h : s.pending = c :: rest) :
    step s = exec c { s with pending := rest } := by
  unfold step
  rw [h]

theorem step_of_idle {s : State} (h : s.pending = []) : step s = .next s := by
  unfold step
  rw [h]

/-! ### What the commands do to the queue -/

@[simp] theorem softResetCommand_pending (s : State) : (softResetCommand s).pending = s.pending := rfl

@[simp] theorem writeRegister_pending (t : Time) (addr : BitVec 7) (v : Half) (s : State) :
    (writeRegister t addr v s).pending = s.pending := by
  obtain ⟨-, h⟩ | h | ⟨c, h⟩ | ⟨-, h⟩ | h | ⟨-, h⟩ | ⟨-, -, h⟩ | h := writeRegister_cases t addr v s <;> simp [h]

@[simp] theorem carrierRises_pending (t : Time) (s : State) : (carrierRises t s).pending = s.pending := by
  unfold carrierRises
  dsimp only
  split
  · simp
  · split <;> rfl

@[simp] theorem carrierFalls_pending (t : Time) (s : State) : (carrierFalls t s).pending = s.pending := by
  unfold carrierFalls
  dsimp only
  split <;> rfl

/-- A guard between two states that keep the queue. -/
theorem ite_pending {p : Prop} [Decidable p] {s t u : State} (ht : t.pending = s.pending) (hu : u.pending = s.pending) :
    (if p then t else u).pending = s.pending := by
  split
  · exact ht
  · exact hu

/-- No command touches the queue: each leads to what its shared operation makes of the state, and each operation's
frame lemma keeps the queue. -/
theorem nextState_pending (c : Instr) (s : State) : (nextState c s).pending = s.pending := by
  cases c with
  | powerOn => rfl
  | resetPinAssert => rfl
  | resetPinRelease => rfl
  | cleanUpComplete => rw [nextState_cleanUpComplete]; exact ite_pending rfl rfl
  | join t => rw [nextState_join]; exact ite_pending rfl (by simp)
  | leave => rw [nextState_leave]; exact ite_pending rfl (by simp)
  | flush c => rw [nextState_flush]; exact ite_pending rfl (by simp)
  | softReset => rw [nextState_softReset]; exact ite_pending rfl (softResetCommand_pending s)
  | unknownCommand code => rw [nextState_unknownCommand]; exact ite_pending rfl (ite_pending (by simp) rfl)
  | registerWrite t addr v => rw [nextState_registerWrite]; exact ite_pending rfl (by simp)
  | eventsRead => rw [nextState_eventsRead]; exact ite_pending rfl (by simp)
  | counterRead k => rw [nextState_counterRead]; exact ite_pending rfl (by simp)
  | readCapture addr => rw [nextState_readCapture]; exact ite_pending rfl (by simp)
  | carrierDetect t level =>
    rw [nextState_carrierDetect]
    exact ite_pending rfl (ite_pending (carrierRises_pending t s) (carrierFalls_pending t s))
  | listenTimerExpiry t =>
    by_cases hdue : s.cyc.state = .listen ∧ ∃ since, s.cyc.listenTimer = .running since ∧ since + listenTimeout ≤ t
    · obtain ⟨hs, since, hl, hd⟩ := hdue
      rw [nextState_listenTimerExpiry_of_due hs hl hd]
      simp
    · rw [nextState_listenTimerExpiry_of_not_due fun hs since hl hd => hdue ⟨hs, since, hl, hd⟩]
  | coldStartDelayEnd t => rw [nextState_coldStartDelayEnd]; exact ite_pending (by simp) rfl
  | transmissionEnd t =>
    cases htx : s.lif.tx with
    | none => rw [nextState_transmissionEnd_idle htx]
    | some f => simp [nextState_transmissionEnd htx]
  | lineLostTimerExpiry t => rw [nextState_lineLostTimerExpiry]; exact ite_pending (by simp) rfl
  | ownBid => rw [nextState_ownBid]; exact ite_pending (by simp) rfl
  | slotReport line => simp [nextState_slotReport]
  | unslottedReception r => simp [nextState_unslottedReception]
  | cycleBoundary =>
    cases hg : nextGap s.cyc with
    | none => rw [nextState_cycleBoundary_idle hg]
    | some start => simp [nextState_cycleBoundary hg]
  | tableSend =>
    cases hf : s.ssu.tableOut with
    | none => rw [nextState_tableSend_idle (.inl hf)]
    | some f =>
      cases hg : s.alc.grants with
      | none => rw [nextState_tableSend_idle (.inr hg)]
      | some g => rw [nextState_tableSend hf hg]; exact ite_pending (by simp) rfl
  | frameRequest =>
    cases hg : ownGrantedSlot s with
    | none => rw [nextState_frameRequest_idle hg]
    | some g => rw [nextState_frameRequest hg]; exact ite_pending (by simp) rfl
  | staleTimerExpiry t src cls => simp [nextState_staleTimerExpiry]
  | ingressWord kind w => rw [nextState_ingressWord]; exact ite_pending (by simp) rfl
  | egressWordTaken => rw [nextState_egressWordTaken]; exact ite_pending (by simp) rfl

end Sys2Proof.Machine

open Sys2Proof Sys2Proof.Machine

/-- Settles O1: the two cases of the queue. -/
theorem stepTakesFrontCommand : Obligations.StepTakesFrontCommand :=
  ⟨fun _ _ _ => step_of_waiting, fun _ => step_of_idle⟩

/-- Settles O2: the next state is the one that the command's equation names, and that one has the queue it found. -/
theorem everyCommandAnswersNext : Obligations.EveryCommandAnswersNext :=
  fun c s => ⟨nextState c s, exec_eq_next c s, nextState_pending c s⟩

end
